-- ==== Sys2Proof/Word.lean ====
section
/-! DEFINITION. The machine's words: a byte is 8 bits and a word is 32 bits (R7). -/

namespace Sys2Proof

/-- A byte (R7). -/
abbrev Byte := BitVec 8

/-- A 32-bit word: a CSR, a command word, an LCG state (R7, R19). -/
abbrev Word := BitVec 32

end Sys2Proof
end

