-- ==== Sys2Proof/Config.lean ====
section
/-! DEFINITION. What one implementation fixes (R6) and the free values of the spec (93_implementation_defined.md). -/

namespace Sys2Proof.Config

/-- The three collaborators the engine calls (R6, R79, R80, R81), as functions on byte strings that carry
their contracts.
The rotation shuffle is only ever called on 256 bytes and the block cipher on 16, so their laws speak of those lengths.
The default field values say no more than that a value of this type exists: no rule of the model uses them
(PRESUMED nothing: log 10). -/
structure Collaborators where
  /-- RotFwd (R79). -/
  rotFwd : List Byte → List Byte := id
  /-- RotInv (R79). -/
  rotInv : List Byte → List Byte := id
  /-- BcEnc, the block cipher under its fixed key (R80). -/
  bcEnc : List Byte → List Byte := id
  /-- BcDec (R80). -/
  bcDec : List Byte → List Byte := id
  /-- Obf, run from its fixed initial table (R81). -/
  obf : List Byte → List Byte := id
  /-- RotFwd maps 256 bytes to 256 bytes (R79). -/
  rotFwd_length : ∀ x, x.length = 256 → (rotFwd x).length = 256 := by intro x h; exact h
  /-- RotInv maps 256 bytes to 256 bytes (R79). -/
  rotInv_length : ∀ x, x.length = 256 → (rotInv x).length = 256 := by intro x h; exact h
  /-- RotInv undoes RotFwd (R79). -/
  rotInv_rotFwd : ∀ x, x.length = 256 → rotInv (rotFwd x) = x := by intro x _; rfl
  /-- RotFwd undoes RotInv (R79). -/
  rotFwd_rotInv : ∀ x, x.length = 256 → rotFwd (rotInv x) = x := by intro x _; rfl
  /-- BcEnc maps 16 bytes to 16 bytes (R80). -/
  bcEnc_length : ∀ x, x.length = 16 → (bcEnc x).length = 16 := by intro x h; exact h
  /-- BcDec maps 16 bytes to 16 bytes (R80). -/
  bcDec_length : ∀ x, x.length = 16 → (bcDec x).length = 16 := by intro x h; exact h
  /-- BcDec undoes BcEnc (R80). -/
  bcDec_bcEnc : ∀ x, x.length = 16 → bcDec (bcEnc x) = x := by intro x _; rfl
  /-- BcEnc undoes BcDec (R80). -/
  bcEnc_bcDec : ∀ x, x.length = 16 → bcEnc (bcDec x) = x := by intro x _; rfl
  /-- Obf keeps the length (R81). -/
  obf_length : ∀ x, (obf x).length = x.length := by intro x; rfl
  /-- Obf is an involution (R81). -/
  obf_obf : ∀ x, obf (obf x) = x := by intro x; rfl
deriving Inhabited

/-- This hardware's collaborators: OPEN in the spec (U2, U3, U4), so a constant with no body. Nothing beyond the
contracts can be proved of it (log 10). -/
opaque collaborators : Collaborators

/-- The `k`-th byte the entropy source gives: a draw under no law (R104, U1; log 5). -/
opaque entropyByte : Nat → Byte

/-- The `k`-th byte the spec leaves as any value: a host read of a destination before completion is observed (U7) or a byte
of the destination of a command that reset abandoned (U8) (log 6, log 8). -/
opaque freeByte : Nat → Byte

/-- `CSR_BASE`: OPEN (R6, U13; log 3). -/
opaque csrBase : Word

/-- `MEM_SIZE - 1`: OPEN (R6, U13; log 3). Held as 32 bits so that the bound of R6 holds of `memSize`. -/
opaque memSizeLessOne : Word

/-- `MEM_SIZE`, a natural with 1 ≤ MEM_SIZE ≤ 2^32 (R6). -/
def memSize : Nat := memSizeLessOne.toNat + 1

/-- `V2_TRAILER`: OPEN (R6, R96, U5; log 3). -/
opaque v2Trailer : Byte

end Sys2Proof.Config
end

