-- ==== Sys2Proof/Syntax.lean ====
section
/-! DEFINITION. The commands: one constructor per row of spec/opcode_table.json (R58). -/

namespace Sys2Proof

/-- A command of the engine. A command plays the part of an instruction (R11). -/
inductive Instr where
  /-- NOP (R73). -/
  | nop
  /-- ENC with the fields VER (0 is "version not given"), IVS and TAGB (R56, R103). -/
  | enc (ver : Nat) (ivs tagb : Bool)
  /-- DEC (R111). -/
  | dec
  /-- LCG_SEED (R74). -/
  | lcgSeed
  /-- LCG_NEXT (R75). -/
  | lcgNext
  /-- LCG_BLOCK (R76). -/
  | lcgBlock
  /-- ROT_BLOCK (R77). -/
  | rotBlock
  /-- LCG_TAG with the field TAGB (R100). -/
  | lcgTag (tagb : Bool)
deriving DecidableEq, Repr

end Sys2Proof
end

