-- ==== Sys2Proof/Machine/State.lean ====
section
/-! DEFINITION. The state of the engine and of its ports, the reasons a step can stop, and the state after reset
(10_state.md, 20_memory.md). -/

namespace Sys2Proof.Machine

/-- The wire versions an ENC or DEC can use (R2, R101). -/
inductive Version where
  | v1 | v2 | v3 | v4 | v5
deriving DecidableEq, Repr

/-- What a ciphertext's length selects (R109): version 1, version 2, or the versions 3 to 5 told apart by the trailer. -/
inductive Family where
  | v1 | v2 | tagged
deriving DecidableEq, Repr

/-- The error causes of a command (R122). -/
inductive ErrorCode where
  | invalidInput | invalidIv | invalidVersion | invalidLength | integrityFailure | illegalCommand | regionFault
deriving DecidableEq, Repr

/-- The collaborator functions a completion may call (R82). -/
inductive Primitive where
  | rotFwd | rotInv | bcEnc | bcDec | obf
deriving DecidableEq, Repr

/-- The addresses `base` to `base + len - 1` of the buffer memory (R42). -/
structure Region where
  base : Nat
  len : Nat
deriving DecidableEq, Repr

/-- The regions of one accepted command: those it reads (source, IV) and its destination, if its rule names one (R50; log 7). -/
structure ActiveRegions where
  reads : List Region
  dst : Option Region
deriving DecidableEq, Repr

/-- The platform parameters of R6, fixed for a run (log 3). -/
structure Platform where
  /-- `CSR_BASE`. -/
  csrBase : Word
  /-- `MEM_SIZE`. -/
  memSize : Nat
  /-- `V2_TRAILER`. -/
  v2Trailer : Byte
deriving DecidableEq, Repr

/-- The sequencer (R15): IDLE, or BUSY with the accepted command word. -/
inductive Sequencer where
  | idle
  | busy (w : Word)
deriving DecidableEq, Repr

/-- The fields of CTRL; its reserved bits read 0 and are not stored (R22). -/
structure Ctrl where
  /-- Bit 0. -/
  ie : Bool
  /-- Bit 1. -/
  tagGen : Bool
  /-- Bits 6:4. -/
  defVer : BitVec 3
deriving DecidableEq, Repr

/-- The stored fields of STATUS (R23). BUSY is the sequencer's (R15); reserved bits read 0 and are not stored. -/
structure Status where
  /-- Bit 1. -/
  done : Bool
  /-- Bit 2. -/
  err : Bool
  /-- Bit 3. -/
  ovr : Bool
  /-- Bits 7:4. -/
  ecode : BitVec 4
  /-- Bits 10:8. -/
  dver : BitVec 3
deriving DecidableEq, Repr

/-- Which collaborator functions do not return when called (R82, R125; log 11). -/
structure Hung where
  rotFwd : Bool
  rotInv : Bool
  bcEnc : Bool
  bcDec : Bool
  obf : Bool
deriving DecidableEq, Repr

/-- What the host last saw through its ports (the model's own; log 17). -/
structure HostView where
  /-- The word the last CSR read returned. -/
  csrData : Word
  /-- The bytes the last memory read returned. -/
  memData : List Byte
  /-- The level of irq at the last sample. -/
  irqLevel : Bool
deriving DecidableEq, Repr

/-- One move of an agent or of the platform (R5, R12, R63; log 1). -/
inductive Input where
  /-- The host writes `size` bytes of value `v` at bus address `addr` of the CSR space (R20). -/
  | csrWrite (addr : Word) (size : Nat) (v : Word)
  /-- The host reads `size` bytes at bus address `addr` of the CSR space (R20). -/
  | csrRead (addr : Word) (size : Nat)
  /-- The host writes bytes to the buffer memory (R63, MEMW). -/
  | memWrite (addr : Nat) (bytes : List Byte)
  /-- The host reads `n` bytes of the buffer memory (R63, MEMR). -/
  | memRead (addr n : Nat)
  /-- The host looks at the interrupt output (R36, R141). -/
  | irqSample
  /-- The engine takes its turn: its completion step if it is BUSY (R16). -/
  | engine
  /-- From now on, calls of `p` do not return, until reset (R82; log 11). -/
  | hang (p : Primitive)
  /-- The platform drives reset (R136). -/
  | reset
deriving DecidableEq, Repr

/-- The buffer memory: cells with strictly rising addresses, none holding what an unlisted address reads as (R40). -/
abbrev Memory := List Host.Cell

/-- What an unlisted address reads as. DESIGN CHOICE: R138 leaves power-on memory unspecified and makes it a launch
input, so a launch memory is any `Memory` (log 4). -/
def Memory.fill : Byte := 0

/-- The whole machine. -/
structure State where
  /-- CSR_BASE, MEM_SIZE and V2_TRAILER (R6). -/
  platform : Platform
  /-- The sequencer (R15). -/
  seq : Sequencer
  /-- CTRL (R22). -/
  ctrl : Ctrl
  /-- STATUS without BUSY (R23). -/
  status : Status
  /-- SRC_ADDR (R25). -/
  srcAddr : Word
  /-- SRC_LEN (R26). -/
  srcLen : Word
  /-- DST_ADDR (R27). -/
  dstAddr : Word
  /-- DST_CAP (R28). -/
  dstCap : Word
  /-- DST_LEN (R29). -/
  dstLen : Word
  /-- IV_ADDR (R30). -/
  ivAddr : Word
  /-- IV_LEN (R31). -/
  ivLen : Word
  /-- ARG (R32). -/
  arg : Word
  /-- LCG_STATE (R33). -/
  lcgState : Word
  /-- RESULT[7:0] (R34). -/
  result : Byte
  /-- The buffer memory (R40). -/
  mem : Memory
  /-- Collaborator functions whose calls do not return (R82). -/
  hung : Hung
  /-- The regions of the commands whose completion the host has not observed, newest first (R140, R141; log 6). -/
  unobserved : List ActiveRegions
  /-- What the host last saw (the model's own). -/
  host : HostView
  /-- How many free bytes have been taken (the model's own; log 5). -/
  draws : Nat
  /-- The moves still to come, oldest first (the model's own; log 1). -/
  inputs : List Input
deriving DecidableEq, Repr

/-- Why the machine stops with a fault. -/
inductive Fault where
  /-- A host write to an active region before completion is observed (R50, R140). Raised by the host's memory write; safe: the
  run is faulted and no claim holds of it (R147). -/
  | hostRace
  /-- A host memory access outside the addresses 0 to MEM_SIZE - 1, which do not exist (R40). Raised by the host's memory read
  and write; safe: the machine stops (log 12). -/
  | hostBadAddress
deriving DecidableEq, Repr

/-- Why a step has no meaning. -/
inductive Refusal where
  /-- An instruction with no meaning in the model; raised by no arm of this model; safe. -/
  | notModelled (mnemonic : String)
  /-- A CSR access that is not an aligned 32-bit access (R20, U9). Raised by the host's CSR read and write; safe. -/
  | csrAccessForm
  /-- A CSR access outside the 256-byte window (R19), which is not an access to this engine. Raised by the host's CSR read and
  write; safe (log 13). -/
  | outsideCsrWindow
deriving DecidableEq, Repr

/-- The platform parameters of this hardware: OPEN (R6, U13). -/
def Platform.ofConfig : Platform :=
  { csrBase := Config.csrBase, memSize := Config.memSize, v2Trailer := Config.v2Trailer }

/-- The machine right after power-on reset (R39, R136, R138). -/
def State.reset : State where
  platform := Platform.ofConfig
  seq := .idle
  ctrl := { ie := false, tagGen := false, defVer := 0 }
  status := { done := false, err := false, ovr := false, ecode := 0, dver := 0 }
  srcAddr := 0
  srcLen := 0
  dstAddr := 0
  dstCap := 0
  dstLen := 0
  ivAddr := 0
  ivLen := 0
  arg := 0
  lcgState := 0
  result := 0
  mem := []
  hung := { rotFwd := false, rotInv := false, bcEnc := false, bcDec := false, obf := false }
  unobserved := []
  host := { csrData := 0, memData := [], irqLevel := false }
  draws := 0
  inputs := []

/-- The machine at power-on with a launch memory `m`, on the platform `p` (R138; log 4). -/
def State.launch (p : Platform) (m : Memory) (inputs : List Input) : State :=
  { State.reset with platform := p, mem := m, inputs := inputs }

end Sys2Proof.Machine
end

