-- ==== Sys2Proof/Machine/Flags.lean ====
section
/-! DEFINITION. The STATUS flags: how they are read, cleared and driven out (R23, R35, R36). The engine has no condition
codes (R35). -/

namespace Sys2Proof.Machine

/-- STATUS.BUSY: 1 in BUSY(W), 0 in IDLE (R15). -/
def Sequencer.isBusy : Sequencer → Bool
  | .idle => false
  | .busy _ => true

/-- The STATUS word (R23): reserved 31:11, DVER 10:8, ECODE 7:4, OVR 3, ERR 2, DONE 1, BUSY 0. -/
def statusWord (s : State) : Word :=
  0#21 ++ s.status.dver ++ s.status.ecode ++ BitVec.ofBool s.status.ovr ++ BitVec.ofBool s.status.err
    ++ BitVec.ofBool s.status.done ++ BitVec.ofBool s.seq.isBusy

/-- A host write to STATUS: a 1 in bit 1 clears DONE, a 1 in bit 3 clears OVR, nothing else changes (R23). -/
def clearStatus (v : Word) (st : Status) : Status :=
  { st with done := st.done && !v.getLsbD 1, ovr := st.ovr && !v.getLsbD 3 }

/-- What acceptance does to STATUS: DONE, ERR, ECODE and DVER go to 0, OVR keeps its value (R16). -/
def acceptStatus (st : Status) : Status :=
  { st with done := false, err := false, ecode := 0, dver := 0 }

/-- What a completion with a code and a version does to STATUS; OVR keeps its value (R16). -/
def completeStatus (code : BitVec 4) (dver : BitVec 3) (st : Status) : Status :=
  { st with done := true, err := code != 0, ecode := code, dver := dver }

/-- The interrupt output, DONE & IE (R36). -/
def irq (s : State) : Bool := s.status.done && s.ctrl.ie

end Sys2Proof.Machine
end

