-- ==== Sys2Proof/Machine/Operands.lean ====
section
/-! DEFINITION. The operands of commands: the effective version, the lengths a version fixes, the byte order of the seed,
and the CSR block as 32-bit words (R8, R19 to R34, R57, R101, R102). -/

namespace Sys2Proof.Machine

/-- The wire version with a number, if there is one (R102). -/
def Version.ofNumber : Nat → Option Version
  | 1 => some .v1
  | 2 => some .v2
  | 3 => some .v3
  | 4 => some .v4
  | 5 => some .v5
  | _ => none

/-- The number of a wire version, as STATUS.DVER reports it (R117). -/
def Version.number : Version → BitVec 3
  | .v1 => 1
  | .v2 => 2
  | .v3 => 3
  | .v4 => 4
  | .v5 => 5

/-- `effver`: VER when it is not 0, CTRL.DEFVER otherwise (R57, R102). -/
def effVer (ver : Nat) (c : Ctrl) : Nat := if ver = 0 then c.defVer.toNat else ver

/-- The header's length: a 32-byte IV or a 4-byte seed (R101). -/
def Version.headerLen : Version → Nat
  | .v1 => 32
  | .v2 => 32
  | .v3 => 4
  | .v4 => 4
  | .v5 => 4

/-- The trailer's length (R101). -/
def Version.trailerLen : Version → Nat
  | .v1 => 0
  | .v2 => 1
  | .v3 => 1
  | .v4 => 1
  | .v5 => 1

/-- The length of the padded plaintext of an `n`-byte plaintext (R88, R103). -/
def paddedLen (n : Nat) : Nat := n + 256 - n % 256

/-- ENC's `outLen` (R101, R103). -/
def Version.payloadLen (v : Version) (n : Nat) : Nat := v.headerLen + paddedLen n + v.trailerLen

/-- The header's length of a decode family (R109). -/
def Family.headerLen : Family → Nat
  | .v1 => 32
  | .v2 => 32
  | .tagged => 4

/-- The trailer's length of a decode family (R109). -/
def Family.trailerLen : Family → Nat
  | .v1 => 0
  | .v2 => 1
  | .tagged => 1

/-- Version dispatch by total length modulo 256 (R109). -/
def Family.ofLength (len : Nat) : Option Family :=
  if len % 256 = 32 then some .v1
  else if len % 256 = 33 then some .v2
  else if len % 256 = 5 then some .tagged
  else none

/-- The code of an error, as ECODE holds it (R122). -/
def ErrorCode.code : ErrorCode → BitVec 4
  | .invalidInput => 1
  | .invalidIv => 2
  | .invalidVersion => 3
  | .invalidLength => 4
  | .integrityFailure => 5
  | .illegalCommand => 6
  | .regionFault => 7

/-- `s[a:b]`, the bytes a to b-1 (R8). -/
def slice (s : List Byte) (a b : Nat) : List Byte := (s.drop a).take (b - a)

/-- `zeros(n)` (R8). -/
def zeros (n : Nat) : List Byte := List.replicate n 0

/-- `s ^ t`, bytewise XOR (R8, R83). -/
def xorBytes (s t : List Byte) : List Byte := List.zipWith (· ^^^ ·) s t

/-- `BE32(s)`: the first byte is the most significant (R8, R44). -/
def be32 (s : List Byte) : Word :=
  s.getD 0 0 ++ s.getD 1 0 ++ s.getD 2 0 ++ s.getD 3 0

/-- `BE32bytes(v)`, the inverse of `be32` on 4 bytes (R8, R44). -/
def be32Bytes (v : Word) : List Byte :=
  [v.extractLsb' 24 8, v.extractLsb' 16 8, v.extractLsb' 8 8, v.extractLsb' 0 8]

/-- The CSRs of the window (R19). -/
inductive Csr where
  | id | ctrl | status | cmd | srcAddr | srcLen | dstAddr | dstCap | dstLen | ivAddr | ivLen | arg | lcgState | result
deriving DecidableEq, Repr

/-- The CSR at a byte offset of the window; none at a reserved offset (R19). -/
def Csr.ofOffset : Nat → Option Csr
  | 0x00 => some .id
  | 0x04 => some .ctrl
  | 0x08 => some .status
  | 0x0C => some .cmd
  | 0x10 => some .srcAddr
  | 0x14 => some .srcLen
  | 0x18 => some .dstAddr
  | 0x1C => some .dstCap
  | 0x20 => some .dstLen
  | 0x24 => some .ivAddr
  | 0x28 => some .ivLen
  | 0x2C => some .arg
  | 0x30 => some .lcgState
  | 0x34 => some .result
  | _ => none

/-- The CTRL word: DEFVER 6:4, TAGGEN 1, IE 0, the rest reads 0 (R22). -/
def ctrlWord (c : Ctrl) : Word :=
  0#25 ++ c.defVer ++ 0#2 ++ BitVec.ofBool c.tagGen ++ BitVec.ofBool c.ie

/-- What a write of a word stores in CTRL: writes to reserved bits are ignored, DEFVER is stored as written (R22). -/
def ctrlOfWord (v : Word) : Ctrl :=
  { ie := v.getLsbD 0, tagGen := v.getLsbD 1, defVer := v.extractLsb' 4 3 }

/-- The value of ID (R21). -/
def idValue : Word := 0x50430005

/-- The word a host read of a CSR returns (R19 to R34): CMD reads 0, RESULT[31:8] read 0. -/
def csrValue (s : State) : Csr → Word
  | .id => idValue
  | .ctrl => ctrlWord s.ctrl
  | .status => statusWord s
  | .cmd => 0
  | .srcAddr => s.srcAddr
  | .srcLen => s.srcLen
  | .dstAddr => s.dstAddr
  | .dstCap => s.dstCap
  | .dstLen => s.dstLen
  | .ivAddr => s.ivAddr
  | .ivLen => s.ivLen
  | .arg => s.arg
  | .lcgState => s.lcgState
  | .result => s.result.setWidth 32

/-- The word a host read at a window offset returns: a reserved offset reads 0 (R20). -/
def csrReadValue (s : State) (off : Nat) : Word :=
  match Csr.ofOffset off with
  | some r => csrValue s r
  | none => 0

/-- What a write to an operand register leaves: nothing changes while BUSY (R18). -/
def writeWhenIdle (s written : State) : State :=
  match s.seq with
  | .idle => written
  | .busy _ => s

end Sys2Proof.Machine
end

