-- ==== Sys2Proof/Machine/Ops.lean ====
section
/-! DEFINITION. The shared operations: the buffer memory (R40 to R43), the region checks (R42), the entropy draw (R104), and
the completion record a command leaves, with a code or without (R16, R123). The engine has no traps: an error completion is
what taking an exception is on this hardware, and there is no return from one (R121, R127, R128). -/

namespace Sys2Proof.Machine

/-- The byte at an address (R41). -/
def Memory.read : Memory → Nat → Byte
  | [], _ => Memory.fill
  | c :: rest, a => if c.1 = a then c.2 else Memory.read rest a

/-- The cells with a new one put before the first of a higher address. -/
def Memory.insertCell (a : Nat) (v : Byte) : Memory → Memory
  | [] => [(a, v)]
  | c :: rest => if a < c.1 then (a, v) :: c :: rest else c :: Memory.insertCell a v rest

/-- The memory with one byte written (R41). A byte equal to what an unlisted address reads as is not listed. -/
def Memory.write (m : Memory) (a : Nat) (v : Byte) : Memory :=
  let rest := m.filter (fun c => c.1 != a)
  if v = Memory.fill then rest else Memory.insertCell a v rest

/-- The canonical form: addresses strictly rising, no cell holding what an unlisted address reads as. -/
abbrev Memory.wf (m : Memory) : Prop :=
  m.Pairwise (fun c d => c.1 < d.1) ∧ ∀ c ∈ m, c.2 ≠ Memory.fill

/-- MemRead (R41). -/
def Memory.readBytes (m : Memory) : Nat → Nat → List Byte
  | _, 0 => []
  | a, n + 1 => m.read a :: Memory.readBytes m (a + 1) n

/-- MemWrite (R41). -/
def Memory.writeBytes : Memory → Nat → List Byte → Memory
  | m, _, [] => m
  | m, a, b :: bs => Memory.writeBytes (m.write a b) (a + 1) bs

/-- A region is in bounds when its end, an exact sum, is at most MEM_SIZE (R42). -/
def Region.inBounds (r : Region) (memSize : Nat) : Bool := r.base + r.len ≤ memSize

/-- Two regions overlap; an empty one overlaps nothing (R42). -/
def Region.overlaps (r t : Region) : Bool :=
  0 < r.len && 0 < t.len && r.base < t.base + t.len && t.base < r.base + r.len

/-- An address lies in a region. -/
def Region.has (r : Region) (a : Nat) : Bool := r.base ≤ a && a < r.base + r.len

/-- The checks of R42, all of which must pass: the destination fits DST_CAP, every region is in bounds, and the destination
overlaps no region that is read. -/
def regionsOk (s : State) (reads : List Region) (dst : Region) : Bool :=
  dst.len ≤ s.dstCap.toNat && (dst :: reads).all (·.inBounds s.platform.memSize) && reads.all (!dst.overlaps ·)

/-- `n` bytes of a free source, from its `k`-th on. -/
def freeBytes (source : Nat → Byte) (k : Nat) : Nat → List Byte
  | 0 => []
  | n + 1 => source k :: freeBytes source (k + 1) n

/-- `Draw(n)`: the next `n` bytes of the entropy source (R104). -/
def drawBytes (s : State) (n : Nat) : List Byte := freeBytes Config.entropyByte s.draws n

/-- The state after `n` free bytes are taken. -/
def takeDraws (n : Nat) (s : State) : State := { s with draws := s.draws + n }

/-- The completion record (R16): the sequencer goes to IDLE, and STATUS takes the code and the version. -/
def completeWith (code : BitVec 4) (dver : BitVec 3) (s : State) : State :=
  { s with seq := .idle, status := completeStatus code dver s.status }

/-- A completion with code 0 of a command other than ENC and DEC (R117). -/
def complete (s : State) : State := completeWith 0 0 s

/-- A completion with code 0 of an ENC or DEC under a version (R117). -/
def completeVersion (v : Version) (s : State) : State := completeWith 0 v.number s

/-- An error completion of ENC, DEC, LCG_BLOCK or ROT_BLOCK: DST_LEN goes to 0 and nothing but STATUS changes besides (R123). -/
def abort (e : ErrorCode) (s : State) : State := completeWith e.code 0 { s with dstLen := 0 }

/-- The completion of an illegal word: only STATUS changes (R60, R123). -/
def completeIllegal (s : State) : State := completeWith ErrorCode.illegalCommand.code 0 s

/-- The output of a command in memory at DST_ADDR, and its result length in DST_LEN (R29, R43). -/
def storeOutput (out : List Byte) (len : Nat) (s : State) : State :=
  { s with mem := s.mem.writeBytes s.dstAddr.toNat out, dstLen := BitVec.ofNat 32 len }

/-- A call of the collaborator function does not return (R82). -/
def Hung.has (h : Hung) : Primitive → Bool
  | .rotFwd => h.rotFwd
  | .rotInv => h.rotInv
  | .bcEnc => h.bcEnc
  | .bcDec => h.bcDec
  | .obf => h.obf

/-- The calls of a collaborator function stop returning (R82). -/
def Hung.set (h : Hung) : Primitive → Hung
  | .rotFwd => { h with rotFwd := true }
  | .rotInv => { h with rotInv := true }
  | .bcEnc => { h with bcEnc := true }
  | .bcDec => { h with bcDec := true }
  | .obf => { h with obf := true }

/-- One of the calls a completion makes does not return. -/
def Hung.blocks (h : Hung) (calls : List Primitive) : Bool := calls.any h.has

end Sys2Proof.Machine
end

