-- ==== Sys2Proof/Machine/Keystream.lean ====
section
/-! DEFINITION. Keystream derivation (40_keystream.md): wrapping arithmetic, LcgRandom, RotationCipherBlock and
KeystreamCipherBlock. -/

namespace Sys2Proof.Machine

/-- 32-bit wrapping addition (R64). The sum is the same either way round; with a constant on the left Lean's kernel never counts
through it. -/
def add32 (a b : Word) : Word := b + a

/-- 32-bit wrapping multiplication (R64). The product is the same either way round, and is written as the sum is. -/
def mul32 (a b : Word) : Word := b * a

/-- The LCG's step (R65). -/
def lcgStep (s : Word) : Word := add32 (mul32 s 0x41C64E6D) 12345

/-- The LCG's output byte: bits 23:16 of the new state (R66). -/
def lcgByte (s : Word) : Byte := s.extractLsb' 16 8

/-- `next_byte`: the output and the new state (R67). -/
def lcgNext (s : Word) : Byte × Word := (lcgByte (lcgStep s), lcgStep s)

/-- The outputs of `n` calls of `next_byte`, the first one first (R71). -/
def lcgOutputs : Nat → Word → List Byte
  | 0, _ => []
  | n + 1, s => lcgByte (lcgStep s) :: lcgOutputs n (lcgStep s)

/-- The state after `n` calls of `next_byte` (R71). -/
def lcgAfter : Nat → Word → Word
  | 0, s => s
  | n + 1, s => lcgAfter n (lcgStep s)

/-- KeystreamCipherBlock: 256 outputs and the state after them (R71, R72). -/
def lcgBlock (s : Word) : List Byte × Word := (lcgOutputs 256 s, lcgAfter 256 s)

/-- 8-bit left rotation by 0 to 7 (R69). -/
def rotl8 (x : Byte) (g : Nat) : Byte := (x <<< g) ||| (x >>> (8 - g))

/-- RotationCipherBlock: group g of 32 bytes is the IV with every byte rotated left by g, for g in 0..7 (R70). -/
def rotBlock (iv : List Byte) : List Byte :=
  (List.range 8).flatMap (fun g => iv.map (rotl8 · g))

end Sys2Proof.Machine
end

