-- ==== Sys2Proof/Machine/Chain.lean ====
section
/-! DEFINITION. The chained-block XOR-feedback loop (41_chain.md). -/

namespace Sys2Proof.Machine

/-- `n` blocks of ChainEnc (R84): each ciphertext block, after the permutation, is the next keystream block. -/
def chainEncBlocks (f : List Byte → List Byte) (b : Nat) : Nat → List Byte → List Byte → List Byte
  | 0, _, _ => []
  | n + 1, k, m =>
    let c := f (xorBytes (m.take b) k)
    c ++ chainEncBlocks f b n c (m.drop b)

/-- ChainEnc (R84) of a message of a whole number of blocks of `b` bytes. -/
def chainEnc (f : List Byte → List Byte) (b : Nat) (k0 m : List Byte) : List Byte :=
  chainEncBlocks f b (m.length / b) k0 m

/-- `n` blocks of ChainDec (R85): the keystream of a block is the ciphertext block before it, as received. -/
def chainDecBlocks (g : List Byte → List Byte) (b : Nat) : Nat → List Byte → List Byte → List Byte
  | 0, _, _ => []
  | n + 1, k, c =>
    let tmp := c.take b
    xorBytes (g tmp) k ++ chainDecBlocks g b n tmp (c.drop b)

/-- ChainDec (R85) of a ciphertext of a whole number of blocks of `b` bytes. -/
def chainDec (g : List Byte → List Byte) (b : Nat) (k0 c : List Byte) : List Byte :=
  chainDecBlocks g b (c.length / b) k0 c

end Sys2Proof.Machine
end

