-- ==== Sys2Proof/Machine/Padding.lean ====
section
/-! DEFINITION. The padding scheme and the integrity-trailer mux (42_padding_trailer.md). -/

namespace Sys2Proof.Machine

/-- `p`, the number of padding bytes of an `n`-byte plaintext, 1 to 256 (R88). -/
def padLen (n : Nat) : Nat := 256 - n % 256

/-- Pad: the plaintext and its zeros, the last byte holding `p mod 256` (R88, R89, R90). -/
def pad (m : List Byte) : List Byte :=
  (m ++ zeros (padLen m.length)).set (m.length + padLen m.length - 1) (BitVec.ofNat 8 (padLen m.length % 256))

/-- `q`, the last byte of a padded plaintext (R91). -/
def padByte (p : List Byte) : Byte := p.getD (p.length - 1) 0

/-- Unpad: the last `q` bytes are dropped, with no check (R91). -/
def unpad (p : List Byte) : List Byte := p.take (p.length - (padByte p).toNat)

/-- Tag A of the legacy generation (`false`) or tag A′ of the newest (`true`) (R93). -/
def tagA (b : Byte) (gen : Bool) : Byte := (b &&& if gen then 0xF3 else 0xE3) ||| 0x08

/-- Tag B (R93). -/
def tagB (b : Byte) : Byte := (b &&& 0xE3) ||| 0x10

/-- The trailer mux (R93). -/
def tag (b : Byte) (useB gen : Bool) : Byte := if useB then tagB b else tagA b gen

/-- Tag C, the trailer of version 4 (R94). -/
def tagC : Byte := 0x21

/-- Tag D, the trailer of version 5 (R94). -/
def tagD : Byte := 0x23

/-- The PRNG byte the version-3 trailer is made of: the 257th output from the seed (R97). -/
def trailerByte (seed : Word) : Byte := (lcgNext (lcgBlock seed).2).1

/-- The version-3 trailer check accepts `t` for a seed (R98). -/
def trailerAccepted (t : Byte) (seed : Word) (gen : Bool) : Bool :=
  t == tagA (trailerByte seed) gen || t == tagB (trailerByte seed)

end Sys2Proof.Machine
end

