-- ==== Sys2Proof/Machine/Codec.lean ====
section
/-! DEFINITION. The versioned codec on byte strings (43_codec.md): Encode (R105 to R108) and Decode (R112 to R116), over any
collaborators that meet their contracts. -/

namespace Sys2Proof.Machine

open Sys2Proof.Config (Collaborators)

/-- The body of versions 1 and 2 (R105). -/
def bodyIv (c : Collaborators) (m iv : List Byte) : List Byte :=
  chainEnc c.rotFwd 256 (rotBlock iv) (pad m)

/-- The body of version 3 (R106). -/
def bodyLcg (c : Collaborators) (m hdr : List Byte) : List Byte :=
  chainEnc c.rotFwd 256 (lcgBlock (be32 hdr)).1 (pad m)

/-- The initial keystream block of versions 4 and 5: the first 16 bytes of the seed's block (R78, R107). -/
def shortKey (hdr : List Byte) : List Byte := slice (lcgBlock (be32 hdr)).1 0 16

/-- The body of versions 4 and 5 before any obfuscation (R107). -/
def bodyCipher (c : Collaborators) (m hdr : List Byte) : List Byte :=
  chainEnc c.bcEnc 16 (shortKey hdr) (pad m)

/-- Encode (R105 to R108): the payload of plaintext `m` under header `hdr`. -/
def encodePayload (c : Collaborators) (v2Trailer : Byte) (v : Version) (m hdr : List Byte) (useB gen : Bool) : List Byte :=
  match v with
  | .v1 => hdr ++ bodyIv c m hdr
  | .v2 => hdr ++ bodyIv c m hdr ++ [v2Trailer]
  | .v3 => hdr ++ bodyLcg c m hdr ++ [tag (trailerByte (be32 hdr)) useB gen]
  | .v4 => hdr ++ bodyCipher c m hdr ++ [tagC]
  | .v5 => c.obf (hdr ++ bodyCipher c m hdr) ++ [tagD]

/-- The collaborator functions Encode calls (R105 to R108). -/
def Version.encodeCalls : Version → List Primitive
  | .v1 => [.rotFwd]
  | .v2 => [.rotFwd]
  | .v3 => [.rotFwd]
  | .v4 => [.bcEnc]
  | .v5 => [.bcEnc, .obf]

/-- Decode3 (R114): the trailer is checked before the chain runs. -/
def decode3 (c : Collaborators) (gen : Bool) (p : List Byte) : Except ErrorCode (List Byte) :=
  let seed := be32 (slice p 0 4)
  if trailerAccepted (p.getD (p.length - 1) 0) seed gen then
    .ok (chainDec c.rotInv 256 (lcgBlock seed).1 (slice p 4 (p.length - 1)))
  else .error .integrityFailure

/-- Decode4 (R115). -/
def decode4 (c : Collaborators) (p : List Byte) : List Byte :=
  chainDec c.bcDec 16 (shortKey (slice p 0 4)) (slice p 4 (p.length - 1))

/-- Decode5 (R116): the whole-buffer pass is undone, the trailer becomes 0x21, and version 4 goes on. -/
def decode5 (c : Collaborators) (p : List Byte) : List Byte :=
  decode4 c (c.obf (slice p 0 (p.length - 1)) ++ [tagC])

/-- The version a payload of a family has: for the versions 3 to 5 the trailer says, 0x23 and 0x21 first (R113). -/
def Family.version (fam : Family) (p : List Byte) : Version :=
  match fam with
  | .v1 => .v1
  | .v2 => .v2
  | .tagged =>
    if p.getD (p.length - 1) 0 = tagD then .v5
    else if p.getD (p.length - 1) 0 = tagC then .v4
    else .v3

/-- Decode (R112 to R116): the padded plaintext of a payload of version `v`. -/
def decodePayload (c : Collaborators) (gen : Bool) (v : Version) (p : List Byte) : Except ErrorCode (List Byte) :=
  match v with
  | .v1 => .ok (chainDec c.rotInv 256 (rotBlock (slice p 0 32)) (slice p 32 p.length))
  | .v2 => .ok (chainDec c.rotInv 256 (rotBlock (slice p 0 32)) (slice p 32 (p.length - 1)))
  | .v3 => decode3 c gen p
  | .v4 => .ok (decode4 c p)
  | .v5 => .ok (decode5 c p)

/-- The collaborator functions Decode calls (R112 to R116). -/
def Version.decodeCalls : Version → List Primitive
  | .v1 => [.rotInv]
  | .v2 => [.rotInv]
  | .v3 => [.rotInv]
  | .v4 => [.bcDec]
  | .v5 => [.obf, .bcDec]

end Sys2Proof.Machine
end

