-- ==== Sys2Proof/Machine/Regions.lean ====
section
/-! DEFINITION. The checks a command makes before it looks at memory (R124) and the regions its rule names (R42, R50). -/

namespace Sys2Proof.Machine

/-- The source region (R25, R26). -/
def srcRegion (s : State) : Region := ⟨s.srcAddr.toNat, s.srcLen.toNat⟩

/-- The IV region as its CSRs give it (R30, R31, R43). -/
def ivRegion (s : State) : Region := ⟨s.ivAddr.toNat, s.ivLen.toNat⟩

/-- The destination region of `n` bytes (R27, R42). -/
def dstRegion (s : State) (n : Nat) : Region := ⟨s.dstAddr.toNat, n⟩

/-- ENC's checks before its regions: InvalidVersion, InvalidInput, InvalidIv, in that order (R103, R124). -/
def encVersion (ver : Nat) (ivs : Bool) (s : State) : Except ErrorCode Version :=
  match Version.ofNumber (effVer ver s.ctrl) with
  | none => .error .invalidVersion
  | some v =>
    if s.srcLen.toNat = 0 then .error .invalidInput
    else if ivs ∧ s.ivLen.toNat ≠ v.headerLen then .error .invalidIv
    else .ok v

/-- The regions ENC reads: the source, and the IV region when IVS = 1 (R103). -/
def encReads (ivs : Bool) (s : State) : List Region :=
  if ivs then [srcRegion s, ivRegion s] else [srcRegion s]

/-- DEC's checks before its regions: InvalidLength by residue (R109), then by minimum (R110, R124). -/
def decFamily (s : State) : Except ErrorCode Family :=
  match Family.ofLength s.srcLen.toNat with
  | none => .error .invalidLength
  | some fam =>
    if s.srcLen.toNat < fam.headerLen + 256 + fam.trailerLen then .error .invalidLength else .ok fam

/-- DEC's `bodyLen` (R111). -/
def bodyLen (fam : Family) (s : State) : Nat := s.srcLen.toNat - fam.headerLen - fam.trailerLen

/-- The regions of an accepted command while its completion is not observed (R50, R140): what its rule reads, and its
destination wherever the rules give its length, whether or not the command will succeed. An ENC with no wire version and a
DEC whose length selects no family have none (DESIGN CHOICE: log 7). -/
def activeRegions (i : Instr) (s : State) : ActiveRegions :=
  match i with
  | .nop => ⟨[], none⟩
  | .enc ver ivs _ =>
    ⟨encReads ivs s,
      (Version.ofNumber (effVer ver s.ctrl)).map fun v => dstRegion s (v.payloadLen s.srcLen.toNat)⟩
  | .dec =>
    ⟨[srcRegion s], (Family.ofLength s.srcLen.toNat).map fun fam => dstRegion s (bodyLen fam s)⟩
  | .lcgSeed => ⟨[], none⟩
  | .lcgNext => ⟨[], none⟩
  | .lcgBlock => ⟨[], some (dstRegion s 256)⟩
  | .rotBlock => ⟨[ivRegion s], some (dstRegion s 256)⟩
  | .lcgTag _ => ⟨[], none⟩

end Sys2Proof.Machine
end

