-- ==== Sys2Proof/Machine/CodecCommands.lean ====
section
/-! DEFINITION. The meanings of ENC and DEC (R103, R111). A completion that calls a collaborator that does not return is not
taken: the engine stays BUSY and nothing changes (R82, R125; log 11). -/

namespace Sys2Proof.Machine

open Sys2Proof.Config (Collaborators)

/-- ENC's header: the IV region's bytes, or a draw, with the state after the draw (R104). -/
def encHeader (ivs : Bool) (n : Nat) (s : State) : List Byte × State :=
  if ivs then (s.mem.readBytes s.ivAddr.toNat n, s) else (drawBytes s n, takeDraws n s)

/-- ENC over any collaborators (R103). -/
def encWith (c : Collaborators) (ver : Nat) (ivs useB : Bool) (s : State) : Host.Outcome State Fault Refusal :=
  match encVersion ver ivs s with
  | .error e => .next (abort e s)
  | .ok v =>
    let outLen := v.payloadLen s.srcLen.toNat
    if regionsOk s (encReads ivs s) (dstRegion s outLen) then
      if s.hung.blocks v.encodeCalls then .next s
      else
        let m := s.mem.readBytes s.srcAddr.toNat s.srcLen.toNat
        let (hdr, t) := encHeader ivs v.headerLen s
        let out := encodePayload c s.platform.v2Trailer v m hdr useB s.ctrl.tagGen
        .next (completeVersion v (storeOutput out outLen t))
    else .next (abort .regionFault s)

/-- DEC over any collaborators (R111). -/
def decWith (c : Collaborators) (s : State) : Host.Outcome State Fault Refusal :=
  match decFamily s with
  | .error e => .next (abort e s)
  | .ok fam =>
    if regionsOk s [srcRegion s] (dstRegion s (bodyLen fam s)) then
      let p := s.mem.readBytes s.srcAddr.toNat s.srcLen.toNat
      let v := fam.version p
      match decodePayload c s.ctrl.tagGen v p with
      | .error e => .next (abort e s)
      | .ok out =>
        if s.hung.blocks v.decodeCalls then .next s
        else .next (completeVersion v (storeOutput out (bodyLen fam s - (padByte out).toNat) s))
    else .next (abort .regionFault s)

/-- ENC on this hardware (R103). -/
def execEnc (ver : Nat) (ivs useB : Bool) (s : State) : Host.Outcome State Fault Refusal :=
  encWith Config.collaborators ver ivs useB s

/-- DEC on this hardware (R111). -/
def execDec (s : State) : Host.Outcome State Fault Refusal :=
  decWith Config.collaborators s

end Sys2Proof.Machine
end

