-- ==== Sys2Proof/Machine/Stage.lean ====
section
/-! DEFINITION. The meanings of NOP and of the stage commands LCG_SEED, LCG_NEXT, LCG_BLOCK, ROT_BLOCK and LCG_TAG (R73 to R77, R100). -/

namespace Sys2Proof.Machine

/-- NOP (R73). -/
def execNop (s : State) : Host.Outcome State Fault Refusal :=
  .next (complete s)

/-- LCG_SEED: LCG_STATE takes ARG (R74). -/
def execLcgSeed (s : State) : Host.Outcome State Fault Refusal :=
  .next (complete { s with lcgState := s.arg })

/-- LCG_NEXT: one `next_byte` of the architected LCG (R75). -/
def execLcgNext (s : State) : Host.Outcome State Fault Refusal :=
  let (b, s') := lcgNext s.lcgState
  .next (complete { s with lcgState := s', result := b })

/-- LCG_BLOCK: 256 outputs of the architected LCG to the destination (R76). -/
def execLcgBlock (s : State) : Host.Outcome State Fault Refusal :=
  if regionsOk s [] (dstRegion s 256) then
    let (ks, s') := lcgBlock s.lcgState
    .next (complete (storeOutput ks 256 { s with lcgState := s' }))
  else .next (abort .regionFault s)

/-- ROT_BLOCK: RotBlock of the IV to the destination; InvalidIv is checked first (R77). -/
def execRotBlock (s : State) : Host.Outcome State Fault Refusal :=
  if s.ivLen.toNat = 32 then
    if regionsOk s [ivRegion s] (dstRegion s 256) then
      .next (complete (storeOutput (rotBlock (s.mem.readBytes s.ivAddr.toNat 32)) 256 s))
    else .next (abort .regionFault s)
  else .next (abort .invalidIv s)

/-- LCG_TAG: the trailer mux on the next byte of the architected LCG (R100). -/
def execLcgTag (useB : Bool) (s : State) : Host.Outcome State Fault Refusal :=
  let (b, s') := lcgNext s.lcgState
  .next (complete { s with lcgState := s', result := tag b useB s.ctrl.tagGen })

end Sys2Proof.Machine
end

