-- ==== Sys2Proof/Machine/Dispatch.lean ====
section
/-! DEFINITION. One arm per command. -/

namespace Sys2Proof.Machine

def exec (i : Instr) (s : State) : Host.Outcome State Fault Refusal :=
  match i with
  | .nop => Sys2Proof.Machine.execNop s
  | .enc ver ivs tagb => Sys2Proof.Machine.execEnc ver ivs tagb s
  | .dec => Sys2Proof.Machine.execDec s
  | .lcgSeed => Sys2Proof.Machine.execLcgSeed s
  | .lcgNext => Sys2Proof.Machine.execLcgNext s
  | .lcgBlock => Sys2Proof.Machine.execLcgBlock s
  | .rotBlock => Sys2Proof.Machine.execRotBlock s
  | .lcgTag tagb => Sys2Proof.Machine.execLcgTag tagb s

end Sys2Proof.Machine
end

