-- ==== Sys2Proof/WellFormed.lean ====
section
/-! DEFINITION. Which instruction terms have an encoding (R56). -/

namespace Sys2Proof

/-- The term's operands fit their fields: VER is a 3-bit field (R56). -/
def Instr.wf : Instr → Bool
  | .nop => true
  | .enc ver _ _ => ver < 8
  | .dec => true
  | .lcgSeed => true
  | .lcgNext => true
  | .lcgBlock => true
  | .rotBlock => true
  | .lcgTag _ => true

end Sys2Proof
end

