-- ==== Sys2Proof/Decode.lean ====
section
/-! DEFINITION. The command word's decoder and encoder (R55 to R61). -/

namespace Sys2Proof

/-- Why a word is illegal (R60). -/
inductive DecodeError where
  /-- A bit of W[31:9] is 1 (R56, R60). -/
  | reservedBits
  /-- OP is 0x8 to 0xF (R58, R60). -/
  | reservedOpcode
  /-- A field the command does not use is not 0 (R59, R60). -/
  | unusedField
deriving DecidableEq, Repr

/-- OP = W[3:0] (R56, R57). -/
def opField (w : Word) : Nat := (w.extractLsb' 0 4).toNat

/-- VER = W[6:4] (R56, R57). -/
def verField (w : Word) : Nat := (w.extractLsb' 4 3).toNat

/-- IVS = W[7] (R56, R57). -/
def ivsField (w : Word) : Bool := w.getLsbD 7

/-- TAGB = W[8] (R56, R57). -/
def tagbField (w : Word) : Bool := w.getLsbD 8

/-- W[31:9], which must be 0 (R56). -/
def reservedField (w : Word) : Nat := (w.extractLsb' 9 23).toNat

/-- A command that uses no field: VER, IVS and TAGB must be 0 (R59). -/
def plainCommand (w : Word) (i : Instr) : Except DecodeError Instr :=
  if verField w = 0 ∧ ivsField w = false ∧ tagbField w = false then .ok i else .error .unusedField

/-- The command a word stands for, or why it is illegal (R58, R59, R60). -/
def decode (w : Word) : Except DecodeError Instr :=
  if reservedField w = 0 then
    match opField w with
    | 0 => plainCommand w .nop
    | 1 => .ok (.enc (verField w) (ivsField w) (tagbField w))
    | 2 => plainCommand w .dec
    | 3 => plainCommand w .lcgSeed
    | 4 => plainCommand w .lcgNext
    | 5 => plainCommand w .lcgBlock
    | 6 => plainCommand w .rotBlock
    | 7 => if verField w = 0 ∧ ivsField w = false then .ok (.lcgTag (tagbField w)) else .error .unusedField
    | _ => .error .reservedOpcode
  else .error .reservedBits

/-- A 0 or 1 bit of a command word. -/
def flagBit (b : Bool) : Nat := if b then 1 else 0

/-- The word of the fields OP, VER, IVS and TAGB (R56, R62). -/
def encodeFields (op ver : Nat) (ivs tagb : Bool) : Word :=
  BitVec.ofNat 32 op ||| (BitVec.ofNat 32 ver <<< 4) ||| (BitVec.ofNat 32 (flagBit ivs) <<< 7)
    ||| (BitVec.ofNat 32 (flagBit tagb) <<< 8)

/-- The word of a command, as R62's table writes it. -/
def encode : Instr → Word
  | .nop => encodeFields 0x0 0 false false
  | .enc ver ivs tagb => encodeFields 0x1 ver ivs tagb
  | .dec => encodeFields 0x2 0 false false
  | .lcgSeed => encodeFields 0x3 0 false false
  | .lcgNext => encodeFields 0x4 0 false false
  | .lcgBlock => encodeFields 0x5 0 false false
  | .rotBlock => encodeFields 0x6 0 false false
  | .lcgTag tagb => encodeFields 0x7 0 false tagb

/-- The decoder on an instruction of the opcode table, its bits numbered as the table numbers them: a command is one 32-bit
word, so a number past 32 bits is no command (R55, R61). -/
def decodeTableWord (nbits w : Nat) : Option Instr :=
  if nbits ≤ 32 ∧ w < 2 ^ 32 then
    match decode (BitVec.ofNat 32 w) with
    | .ok i => some i
    | .error _ => none
  else none

end Sys2Proof
end

