-- ==== Sys2Proof/Machine/HostPort.lean ====
section
/-! DEFINITION. What the host and the platform do to the engine: CSR accesses (R16 to R36), buffer-memory accesses and their
hazards (R49, R50, R140, R141), the interrupt line (R36), and reset (R136, R137). -/

namespace Sys2Proof.Machine

/-- The active regions of a command word; an illegal word has none (R50, R60). -/
def wordRegions (w : Word) (s : State) : ActiveRegions :=
  match decode w with
  | .ok i => activeRegions i s
  | .error _ => ⟨[], none⟩

/-- Acceptance of a command word by an IDLE sequencer (R16). -/
def accept (w : Word) (s : State) : State :=
  { s with
    seq := .busy w
    status := acceptStatus s.status
    unobserved := wordRegions w s :: s.unobserved }

/-- A CMD write: accepted in IDLE (R16); in BUSY it only sets OVR (R17). -/
def writeCmd (w : Word) (s : State) : State :=
  match s.seq with
  | .idle => accept w s
  | .busy _ => { s with status := { s.status with ovr := true } }

/-- A host write of a word to a CSR (R16 to R34): writes to RO registers are ignored (R20). -/
def writeCsr (r : Csr) (v : Word) (s : State) : State :=
  match r with
  | .id => s
  | .ctrl => writeWhenIdle s { s with ctrl := ctrlOfWord v }
  | .status => { s with status := clearStatus v s.status }
  | .cmd => writeCmd v s
  | .srcAddr => writeWhenIdle s { s with srcAddr := v }
  | .srcLen => writeWhenIdle s { s with srcLen := v }
  | .dstAddr => writeWhenIdle s { s with dstAddr := v }
  | .dstCap => writeWhenIdle s { s with dstCap := v }
  | .dstLen => s
  | .ivAddr => writeWhenIdle s { s with ivAddr := v }
  | .ivLen => writeWhenIdle s { s with ivLen := v }
  | .arg => writeWhenIdle s { s with arg := v }
  | .lcgState => s
  | .result => s

/-- A host write at a window offset: a write to a reserved offset is ignored (R20). -/
def writeOffset (off : Nat) (v : Word) (s : State) : State :=
  match Csr.ofOffset off with
  | some r => writeCsr r v s
  | none => s

/-- The window offset of a CSR access, if it is an aligned 32-bit access inside the window at `base` (R19, R20, U9; log 13). -/
def csrOffset (base addr : Word) (size : Nat) : Except Refusal Nat :=
  let off := (addr - base).toNat
  if 256 ≤ off then .error .outsideCsrWindow
  else if size ≠ 4 ∨ off % 4 ≠ 0 then .error .csrAccessForm
  else .ok off

/-- The host has observed that no command is running and every earlier one has completed (R141). -/
def observe (s : State) : State := { s with unobserved := [] }

/-- The state after the host observes, if it did. -/
def observeIf (b : Bool) (s : State) : State := if b then observe s else s

/-- The host reads STATUS and sees BUSY = 0 and DONE = 1 (R141). -/
def seesDone (off : Nat) (s : State) : Bool :=
  Csr.ofOffset off == some .status && !s.seq.isBusy && s.status.done

/-- A host write of a CSR. -/
def hostCsrWrite (addr : Word) (size : Nat) (v : Word) (s : State) : Host.Outcome State Fault Refusal :=
  match csrOffset s.platform.csrBase addr size with
  | .error r => .refused r
  | .ok off => .next (writeOffset off v s)

/-- A host read of a CSR: no side effect on the engine (R20); it may be the host's observation of completion (R141). -/
def hostCsrRead (addr : Word) (size : Nat) (s : State) : Host.Outcome State Fault Refusal :=
  match csrOffset s.platform.csrBase addr size with
  | .error r => .refused r
  | .ok off =>
    .next (observeIf (seesDone off s) { s with host := { s.host with csrData := csrReadValue s off } })

/-- The host samples the interrupt output; a 1 is its observation of completion (R36, R141). -/
def hostIrqSample (s : State) : State :=
  observeIf (irq s) { s with host := { s.host with irqLevel := irq s } }

/-- The active regions of every unobserved command. -/
def ActiveRegions.all (a : ActiveRegions) : List Region := a.reads ++ a.dst.toList

/-- A region touches an active region (R50, R140). -/
def touchesActive (r : Region) (s : State) : Bool :=
  s.unobserved.any (fun a => a.all.any r.overlaps)

/-- An address lies in the destination of a command whose completion is not observed (R50, R140). -/
def inUnobservedDst (s : State) (a : Nat) : Bool :=
  s.unobserved.any (fun r => r.dst.toList.any (·.has a))

/-- A host write of bytes: HostRace if it touches an active region (R50, R140). -/
def hostMemWrite (addr : Nat) (bytes : List Byte) (s : State) : Host.Outcome State Fault Refusal :=
  let r : Region := ⟨addr, bytes.length⟩
  if r.inBounds s.platform.memSize then
    if touchesActive r s then .fault .hostRace
    else .next { s with mem := s.mem.writeBytes addr bytes }
  else .fault .hostBadAddress

/-- The bytes a host read returns: any value in an unobserved destination (R50, U7), the memory's byte elsewhere. The free byte of an
address is the one after as many draws as bytes read before it. DESIGN CHOICE: a byte that lies both in an unobserved
destination and in a source or IV region, of which R50 and R140 say both things, is any value (log 18). -/
def hostBytes (s : State) : Nat → Nat → Nat → List Byte
  | _, _, 0 => []
  | k, a, n + 1 =>
    (if inUnobservedDst s a then Config.freeByte k else s.mem.read a) :: hostBytes s (k + 1) (a + 1) n

/-- A host read of bytes (R50, R140). -/
def hostMemRead (addr n : Nat) (s : State) : Host.Outcome State Fault Refusal :=
  if (Region.mk addr n).inBounds s.platform.memSize then
    .next { takeDraws n s with host := { s.host with memData := hostBytes s s.draws addr n } }
  else .fault .hostBadAddress

/-- The bytes of a region made any value, but for addresses a region of `keep` holds or past the end of memory (R137, U8). -/
def freeRegion (keep : List Region) (memSize : Nat) : Nat → Nat → Nat → Memory → Memory
  | _, _, 0, m => m
  | k, a, n + 1, m =>
    let m' := if a < memSize ∧ keep.any (·.has a) = false then m.write a (Config.freeByte k) else m
    freeRegion keep memSize (k + 1) (a + 1) n m'

/-- The memory after reset (R136, R137): unchanged in IDLE; in BUSY(W) the destination of W becomes any value and the regions W
reads stay as they are, also where the two overlap (log 7, log 8). -/
def memAfterReset (s : State) : Memory :=
  match s.seq with
  | .idle => s.mem
  | .busy w =>
    match (wordRegions w s).dst with
    | none => s.mem
    | some d => freeRegion (wordRegions w s).reads s.platform.memSize s.draws d.base d.len s.mem

/-- How many free bytes a reset takes. -/
def resetDraws (s : State) : Nat :=
  match s.seq with
  | .idle => 0
  | .busy w =>
    match (wordRegions w s).dst with
    | none => 0
    | some d => d.len

/-- Reset (R136): every register as State.reset has it, the sequencer IDLE, the memory as `memAfterReset` says. What is not the
engine's stays: the platform, the host's view, the moves to come (log 9). -/
def resetEngine (s : State) : State :=
  { State.reset with
    platform := s.platform
    mem := memAfterReset s
    host := s.host
    draws := s.draws + resetDraws s
    inputs := s.inputs }

end Sys2Proof.Machine
end

