-- ==== Sys2Proof/Machine/Turn.lean ====
section
/-! DEFINITION. One move of an agent (R5, R12, R16). -/

namespace Sys2Proof.Machine

/-- The engine's turn: in BUSY(W) the completion step of W (R16), an illegal word completing with IllegalCommand (R60); in IDLE
the engine does nothing (R128, R135). -/
def engineTurn (s : State) : Host.Outcome State Fault Refusal :=
  match s.seq with
  | .idle => .next s
  | .busy w =>
    match decode w with
    | .ok i => exec i s
    | .error _ => .next (completeIllegal s)

/-- One move (log 1). -/
def move (i : Input) (s : State) : Host.Outcome State Fault Refusal :=
  match i with
  | .csrWrite addr size v => hostCsrWrite addr size v s
  | .csrRead addr size => hostCsrRead addr size s
  | .memWrite addr bytes => hostMemWrite addr bytes s
  | .memRead addr n => hostMemRead addr n s
  | .irqSample => .next (hostIrqSample s)
  | .engine => engineTurn s
  | .hang p => .next { s with hung := s.hung.set p }
  | .reset => .next (resetEngine s)

/-- The next move: the oldest input's, or the engine's when there is none (R145; log 1). -/
def nextMove (s : State) : Host.Outcome State Fault Refusal :=
  match s.inputs with
  | [] => engineTurn s
  | i :: rest => move i { s with inputs := rest }

/-- The moves to come with the engine's turn first: no move stands for it when there is none at all (R145; log 1, log 2). -/
def engineFirst : List Input → List Input
  | [] => []
  | i :: rest => .engine :: i :: rest

/-- The machine with a command word accepted and the engine to move next (log 2). -/
def latchWord (w : Word) (s : State) : State :=
  { s with seq := .busy w, inputs := engineFirst s.inputs }

end Sys2Proof.Machine
end

