-- ==== Sys2Proof/Machine/Step.lean ====
section
/-! DEFINITION. The step function. The engine fetches nothing (R14, R53): its next instruction is the word the sequencer
holds. -/

namespace Sys2Proof.Machine

/-- One step of the machine: one move of one agent (R12, R16). -/
def step (s : State) : Host.Outcome State Fault Refusal := nextMove s

/-- The machine with a command word where the next step takes it from: latched in the sequencer, the engine to move (R16, R53;
log 2). A command is one word, so every bit of `w` past 32 is dropped. -/
def State.withFetchWord (s : State) (_nbits w : Nat) : State := latchWord (BitVec.ofNat 32 w) s

end Sys2Proof.Machine
end

