-- ==== Sys2Proof/Safety.lean ====
section
/-! DEFINITION. What claims call a well-formed state, a quiet machine and the end of a run. -/

namespace Sys2Proof.Machine

/-- What holds of every state a run reaches: the memory is canonical and inside MEM_SIZE (R40), MEM_SIZE is in its range (R6),
and STATUS is as the last acceptance or completion left it (R16, R23, R117, R122). -/
structure State.Inv (s : State) : Prop where
  /-- The memory keeps its canonical form. -/
  memWf : s.mem.wf
  /-- Every listed cell is at an address that exists (R40). -/
  memInside : ∀ c ∈ s.mem, c.1 < s.platform.memSize
  /-- 1 ≤ MEM_SIZE (R6). -/
  memSizePos : 1 ≤ s.platform.memSize
  /-- MEM_SIZE ≤ 2^32 (R6). -/
  memSizeMax : s.platform.memSize ≤ 2 ^ 32
  /-- While BUSY, what acceptance cleared stays cleared; DONE is always 0 (R16, R23). -/
  busyStatus : s.seq.isBusy = true →
    s.status.done = false ∧ s.status.err = false ∧ s.status.ecode = 0 ∧ s.status.dver = 0
  /-- ERR is 1 exactly when the code is not 0 (R16, R23). -/
  errIsCode : s.status.err = (s.status.ecode != 0)
  /-- ECODE 8 to 15 are never written (R122). -/
  codeRange : s.status.ecode.toNat ≤ 7
  /-- DVER is 0 or a wire version (R117). -/
  versionRange : s.status.dver.toNat ≤ 5
  /-- After an error DVER is 0 (R117). -/
  errNoVersion : s.status.err = true → s.status.dver = 0

/-- STATUS after a completion with code 0 and a version, from a state: BUSY is the sequencer's, OVR keeps its value (R16). -/
def State.okStatus (s : State) (dver : BitVec 3) : Status :=
  { done := true, err := false, ovr := s.status.ovr, ecode := 0, dver := dver }

/-- The state an error completion of ENC, DEC, LCG_BLOCK or ROT_BLOCK leaves: STATUS and DST_LEN change, nothing else (R123). -/
def State.failed (s : State) (code : BitVec 4) : State :=
  { s with
    seq := .idle
    dstLen := 0
    status := { done := true, err := true, ovr := s.status.ovr, ecode := code, dver := 0 } }

/-- The regions `(a, n)` and `(b, m)` share an address (R42). -/
abbrev meet (a n b m : Nat) : Prop := 0 < n ∧ 0 < m ∧ a < b + m ∧ b < a + n

/-- Every collaborator call returns (the premise R145 and U11 name). -/
abbrev Hung.none (h : Hung) : Prop :=
  h.rotFwd = false ∧ h.rotInv = false ∧ h.bcEnc = false ∧ h.bcDec = false ∧ h.obf = false

/-- An input is no collaborator hang. -/
def Input.isHang : Input → Bool
  | .hang _ => true
  | _ => false

/-- Every collaborator call returns, now and in every move to come (R145, U11). -/
abbrev State.collaboratorsReturn (s : State) : Prop :=
  s.hung.none ∧ ∀ i ∈ s.inputs, i.isHang = false

/-- The run is over: the sequencer is IDLE and the host has no further move (R147). -/
abbrev State.over (s : State) : Prop := s.seq = .idle ∧ s.inputs = []

/-- The engine moves next: its turn stands first among the moves, or there is no move left. `rest` is what is left after. -/
abbrev State.engineNext (s : State) (rest : List Input) : Prop :=
  s.inputs = .engine :: rest ∨ (s.inputs = [] ∧ rest = [])

/-- `n` steps, stopping at the first fault or refusal (R147). -/
def steps : Nat → State → Host.Outcome State Fault Refusal
  | 0, s => .next s
  | n + 1, s =>
    match step s with
    | .next t => steps n t
    | .fault r => .fault r
    | .refused r => .refused r

end Sys2Proof.Machine
end

