-- ==== Sys2Proof/Certificates/Slice0/Obligations.lean ====
section
/-! DEFINITION. The statements about the engine, from the numbered rules of spec/. -/

open Sys2Proof Sys2Proof.Machine

/-! ### The command word (30_encoding.md) -/

/-- Decoding the word of a well-formed command gives the command back, with every field at every value (R56, R62). -/
def Obligations.DecodeEncodeRoundTrip : Prop :=
  ∀ i : Instr, i.wf = true → decode (encode i) = .ok i

/-- A word that decodes is the word of the command it decodes to, which is well formed (R56, R58, R62). -/
def Obligations.EncodeDecodedWord : Prop :=
  ∀ (w : Word) (i : Instr), decode w = .ok i → i.wf = true ∧ encode i = w

/-- A word decodes as the one row of the opcode table whose match it has under the row's mask, and any other word is
illegal (R58). -/
def Obligations.DecodeIsTheOpcodeTable : Prop :=
  ∀ w : Word,
    (decode w = .ok .nop ↔ w &&& 0xFFFFFFFF#32 = 0x00000000#32) ∧
    ((∃ ver ivs tagb, decode w = .ok (.enc ver ivs tagb)) ↔ w &&& 0xFFFFFE0F#32 = 0x00000001#32) ∧
    (decode w = .ok .dec ↔ w &&& 0xFFFFFFFF#32 = 0x00000002#32) ∧
    (decode w = .ok .lcgSeed ↔ w &&& 0xFFFFFFFF#32 = 0x00000003#32) ∧
    (decode w = .ok .lcgNext ↔ w &&& 0xFFFFFFFF#32 = 0x00000004#32) ∧
    (decode w = .ok .lcgBlock ↔ w &&& 0xFFFFFFFF#32 = 0x00000005#32) ∧
    (decode w = .ok .rotBlock ↔ w &&& 0xFFFFFFFF#32 = 0x00000006#32) ∧
    ((∃ tagb, decode w = .ok (.lcgTag tagb)) ↔ w &&& 0xFFFFFEFF#32 = 0x00000007#32) ∧
    ((∃ e, decode w = .error e) ↔
      w &&& 0xFFFFFFFF#32 ∉
          [0x00000000#32, 0x00000002#32, 0x00000003#32, 0x00000004#32, 0x00000005#32, 0x00000006#32] ∧
        w &&& 0xFFFFFE0F#32 ≠ 0x00000001#32 ∧ w &&& 0xFFFFFEFF#32 ≠ 0x00000007#32)

/-- The fields of ENC and LCG_TAG are W[6:4], W[7] and W[8], zero-extended (R56, R57). -/
def Obligations.CommandFields : Prop :=
  (∀ (w : Word) (ver : Nat) (ivs tagb : Bool), decode w = .ok (.enc ver ivs tagb) →
    ver = w.toNat / 2 ^ 4 % 2 ^ 3 ∧ flagBit ivs = w.toNat / 2 ^ 7 % 2 ∧ flagBit tagb = w.toNat / 2 ^ 8 % 2) ∧
  ∀ (w : Word) (tagb : Bool), decode w = .ok (.lcgTag tagb) → flagBit tagb = w.toNat / 2 ^ 8 % 2

/-- Words the spec writes out, of every command and of each kind of illegal word (R62, R60, 95_test_vectors.md V-DECODE). -/
def Obligations.SpelledWords : Prop :=
  decode 0x00000000 = .ok .nop ∧ decode 0x000000B1 = .ok (.enc 3 true false) ∧
    decode 0x000001B1 = .ok (.enc 3 true true) ∧ decode 0x00000011 = .ok (.enc 1 false false) ∧
    decode 0x000000D1 = .ok (.enc 5 true false) ∧ decode 0x00000002 = .ok .dec ∧
    decode 0x00000003 = .ok .lcgSeed ∧ decode 0x00000004 = .ok .lcgNext ∧ decode 0x00000005 = .ok .lcgBlock ∧
    decode 0x00000006 = .ok .rotBlock ∧ decode 0x00000007 = .ok (.lcgTag false) ∧
    decode 0x00000107 = .ok (.lcgTag true) ∧ decode 0x00000012 = .error .unusedField ∧
    decode 0x00000102 = .error .unusedField ∧ decode 0x00000017 = .error .unusedField ∧
    decode 0x00000087 = .error .unusedField ∧ decode 0x00000201 = .error .reservedBits ∧
    decode 0x80000000 = .error .reservedBits ∧ decode 0x00000008 = .error .reservedOpcode ∧
    decode 0x0000000F = .error .reservedOpcode

/-! ### Acceptance and completion (10_state.md) -/

/-- When the engine moves and the sequencer holds a word that decodes, the step is the command's meaning (R16). The second clause says it
of `withFetchWord`: the word is latched and the very next step runs it. -/
def Obligations.StepRunsDecodedCommand : Prop :=
  (∀ (s : State) (w : Word) (i : Instr) (rest : List Input),
    s.seq = .busy w → decode w = .ok i → s.engineNext rest → step s = exec i { s with inputs := rest }) ∧
  ∀ (s : State) (i : Instr), i.wf = true →
    step (s.withFetchWord 32 (encode i).toNat) = exec i { s with seq := .busy (encode i) }

/-- An illegal word is accepted like any other, and its completion changes only STATUS: code IllegalCommand, 6 (R60). -/
def Obligations.IllegalWordCompletes : Prop :=
  ∀ (s : State) (w : Word) (rest : List Input),
    (8 ≤ w.toNat % 2 ^ 4 ∨ w.toNat / 2 ^ 9 ≠ 0 ∨
      (w.toNat % 2 ^ 4 ≠ 1 ∧ w.toNat % 2 ^ 4 ≠ 7 ∧ w.toNat / 2 ^ 4 % 2 ^ 5 ≠ 0) ∨
      (w.toNat % 2 ^ 4 = 7 ∧ w.toNat / 2 ^ 4 % 2 ^ 4 ≠ 0)) →
    (s.seq = .idle → s.inputs = .csrWrite (s.platform.csrBase + 0x0C) 4 w :: rest →
      ∃ t, step s = .next t ∧ t.seq = .busy w) ∧
    (s.seq = .busy w → s.engineNext rest →
      step s = .next { s with
        inputs := rest
        seq := .idle
        status := { done := true, err := true, ovr := s.status.ovr, ecode := 6, dver := 0 } })

/-- A CMD write in IDLE latches the word, clears DONE, ERR, ECODE and DVER and keeps OVR (R16, step 1). That the command's regions then
count as active is R50's; the field that holds them is the model's (log 6). -/
def Obligations.CmdWriteIsAccepted : Prop :=
  ∀ (s : State) (w : Word) (rest : List Input),
    s.seq = .idle → s.inputs = .csrWrite (s.platform.csrBase + 0x0C) 4 w :: rest →
    step s = .next { s with
      inputs := rest
      seq := .busy w
      status := { done := false, err := false, ovr := s.status.ovr, ecode := 0, dver := 0 }
      unobserved := wordRegions w s :: s.unobserved }

/-- A CMD write in BUSY sets OVR and changes nothing else (R17). -/
def Obligations.CmdWriteWhileBusySetsOvr : Prop :=
  ∀ (s : State) (w v : Word) (rest : List Input),
    s.seq = .busy w → s.inputs = .csrWrite (s.platform.csrBase + 0x0C) 4 v :: rest →
    step s = .next { s with inputs := rest, status := { s.status with ovr := true } }

/-- While the sequencer is BUSY no move but the engine's and a reset changes an operand register or the running command; a write to an
operand register is carried out as nothing at all; and a write to STATUS is still carried out (R18). -/
def Obligations.OperandsFrozenWhileBusy : Prop :=
  ∀ (s : State) (w : Word) (rest : List Input), s.seq = .busy w →
    (∀ (t : State) (x : Input), s.inputs = x :: rest → x ≠ .engine → x ≠ .reset → step s = .next t →
      t.seq = .busy w ∧ t.ctrl = s.ctrl ∧ t.srcAddr = s.srcAddr ∧ t.srcLen = s.srcLen ∧ t.dstAddr = s.dstAddr ∧
        t.dstCap = s.dstCap ∧ t.ivAddr = s.ivAddr ∧ t.ivLen = s.ivLen ∧ t.arg = s.arg) ∧
    (∀ (off : Nat) (v : Word), off ∈ [0x04, 0x10, 0x14, 0x18, 0x1C, 0x24, 0x28, 0x2C] →
      s.inputs = .csrWrite (s.platform.csrBase + BitVec.ofNat 32 off) 4 v :: rest →
      step s = .next { s with inputs := rest }) ∧
    ∀ v : Word, s.inputs = .csrWrite (s.platform.csrBase + 0x08) 4 v :: rest →
      step s = .next { s with
        inputs := rest
        status := { s.status with done := s.status.done && !v.getLsbD 1, ovr := s.status.ovr && !v.getLsbD 3 } }

/-- A write to STATUS, in every state of the sequencer (R23): a 1 in bit 1 clears DONE, a 1 in bit 3 clears OVR, a 0 there leaves them, and
nothing else changes; the word read back says the same. -/
def Obligations.StatusWriteClears : Prop :=
  ∀ (s : State) (v : Word) (rest : List Input),
    s.inputs = .csrWrite (s.platform.csrBase + 0x08) 4 v :: rest →
    ∃ t, step s = .next t ∧ t = { s with inputs := rest, status := t.status } ∧
      t.status.done = (s.status.done && !v.getLsbD 1) ∧ t.status.ovr = (s.status.ovr && !v.getLsbD 3) ∧
      t.status.err = s.status.err ∧ t.status.ecode = s.status.ecode ∧ t.status.dver = s.status.dver ∧
      csrReadValue t 0x08 = csrReadValue s 0x08 &&& ~~~(v &&& 0x0000000A#32)

/-- The CSR access rules (R20): an aligned 32-bit read returns the register's value and changes nothing but what the host has seen; CMD and
the reserved offsets read 0; writes to read-only registers and reserved offsets are ignored; reserved bits read 0 and writes to them are
ignored; every other access form is refused. -/
def Obligations.CsrAccessRules : Prop :=
  ∀ (s : State) (off size : Nat) (v : Word) (rest : List Input), off < 256 →
    (off % 4 = 0 → s.inputs = .csrRead (s.platform.csrBase + BitVec.ofNat 32 off) 4 :: rest →
      ∃ t, step s = .next t ∧ t.host.csrData = csrReadValue s off ∧
        t = { s with
          inputs := rest
          host := { s.host with csrData := csrReadValue s off }
          unobserved := t.unobserved } ∧
        (off ≠ 0x08 → t.unobserved = s.unobserved)) ∧
    (off = 0x0C ∨ 0x38 ≤ off → csrReadValue s off = 0) ∧
    (off % 4 = 0 → off ∈ [0x00, 0x20, 0x30, 0x34] ∨ 0x38 ≤ off →
      s.inputs = .csrWrite (s.platform.csrBase + BitVec.ofNat 32 off) 4 v :: rest →
      step s = .next { s with inputs := rest }) ∧
    (csrReadValue s 0x04 &&& 0xFFFFFF8C#32 = 0 ∧ csrReadValue s 0x08 &&& 0xFFFFF800#32 = 0 ∧
      csrReadValue s 0x34 &&& 0xFFFFFF00#32 = 0 ∧
      writeOffset 0x04 v s = writeOffset 0x04 (v &&& 0x00000073#32) s ∧
      writeOffset 0x08 v s = writeOffset 0x08 (v &&& 0x0000000A#32) s) ∧
    (size ≠ 4 ∨ off % 4 ≠ 0 →
      (s.inputs = .csrRead (s.platform.csrBase + BitVec.ofNat 32 off) size :: rest →
        step s = .refused .csrAccessForm) ∧
      (s.inputs = .csrWrite (s.platform.csrBase + BitVec.ofNat 32 off) size v :: rest →
        step s = .refused .csrAccessForm))

/-- ID reads 0x50430005 in every state, before and after a reset, and a write to it is ignored (R21). -/
def Obligations.IdIsConstant : Prop :=
  ∀ (s : State) (v : Word) (rest : List Input),
    (s.inputs = .csrRead s.platform.csrBase 4 :: rest →
      ∃ t, step s = .next t ∧ t.host.csrData.toNat / 2 ^ 16 = 0x5043 ∧ t.host.csrData.toNat % 2 ^ 16 = 0x0005) ∧
    (s.inputs = .csrWrite s.platform.csrBase 4 v :: rest → step s = .next { s with inputs := rest }) ∧
    csrReadValue (resetEngine s) 0x00 = 0x50430005#32

/-- A CTRL write in IDLE stores IE, TAGGEN and DEFVER as written, and the register reads back with its reserved bits 0 (R22). -/
def Obligations.CtrlReadWrite : Prop :=
  ∀ (s : State) (v : Word) (rest : List Input),
    s.seq = .idle → s.inputs = .csrWrite (s.platform.csrBase + 0x04) 4 v :: rest →
    ∃ t, step s = .next t ∧ t = { s with inputs := rest, ctrl := t.ctrl } ∧
      flagBit t.ctrl.ie = v.toNat % 2 ∧ flagBit t.ctrl.tagGen = v.toNat / 2 % 2 ∧
      t.ctrl.defVer.toNat = v.toNat / 2 ^ 4 % 2 ^ 3 ∧ csrReadValue t 0x04 = v &&& 0x00000073#32

/-- Each offset of the CSR map reads its register (R19, R21 to R34). And a write in IDLE to an operand register stores every value, is read
back whole, and leaves every other CSR and the memory as they are (R19, R25 to R32). -/
def Obligations.OperandRegistersReadBack : Prop :=
  (∀ s : State,
    csrReadValue s 0x00 = 0x50430005#32 ∧ csrReadValue s 0x04 = ctrlWord s.ctrl ∧ csrReadValue s 0x08 = statusWord s ∧
      csrReadValue s 0x0C = 0 ∧ csrReadValue s 0x10 = s.srcAddr ∧ csrReadValue s 0x14 = s.srcLen ∧
      csrReadValue s 0x18 = s.dstAddr ∧ csrReadValue s 0x1C = s.dstCap ∧ csrReadValue s 0x20 = s.dstLen ∧
      csrReadValue s 0x24 = s.ivAddr ∧ csrReadValue s 0x28 = s.ivLen ∧ csrReadValue s 0x2C = s.arg ∧
      csrReadValue s 0x30 = s.lcgState ∧ csrReadValue s 0x34 = s.result.setWidth 32 ∧
      ∀ off, 0x38 ≤ off → csrReadValue s off = 0) ∧
  ∀ (s : State) (off : Nat) (v : Word) (rest : List Input),
    off ∈ [0x10, 0x14, 0x18, 0x1C, 0x24, 0x28, 0x2C] → s.seq = .idle →
    s.inputs = .csrWrite (s.platform.csrBase + BitVec.ofNat 32 off) 4 v :: rest →
    ∃ t, step s = .next t ∧ csrReadValue t off = v ∧ (∀ x, x ≠ off → csrReadValue t x = csrReadValue s x) ∧
      t.seq = .idle ∧ t.mem = s.mem ∧ t.inputs = rest ∧ t.unobserved = s.unobserved

/-- The fields of the STATUS word (R23): BUSY, DONE, ERR and OVR are bits 0 to 3, ECODE is bits 7:4, DVER is bits 10:8, the rest is 0. -/
def Obligations.StatusWordLayout : Prop :=
  ∀ s : State,
    (csrReadValue s 0x08).toNat =
      flagBit s.seq.isBusy + 2 * flagBit s.status.done + 4 * flagBit s.status.err + 8 * flagBit s.status.ovr
        + 16 * s.status.ecode.toNat + 256 * s.status.dver.toNat

/-- The interrupt output the host samples is STATUS.DONE & CTRL.IE, as the two registers read (R36). -/
def Obligations.InterruptIsDoneAndEnable : Prop :=
  ∀ (s : State) (rest : List Input), s.inputs = .irqSample :: rest →
    ∃ t, step s = .next t ∧
      t.host.irqLevel = ((csrReadValue s 0x08).getLsbD 1 && (csrReadValue s 0x04).getLsbD 0) ∧
      t = { s with inputs := rest, host := { s.host with irqLevel := t.host.irqLevel }, unobserved := t.unobserved }

/-- What drops the interrupt: ACK, the acceptance of the next command, and clearing IE (R126, R143). -/
def Obligations.InterruptIsCleared : Prop :=
  ∀ (s : State) (v : Word) (rest : List Input),
    (s.inputs = .csrWrite (s.platform.csrBase + 0x08) 4 0x0000000A :: rest →
      ∃ t, step s = .next t ∧ irq t = false) ∧
    (s.seq = .idle → s.inputs = .csrWrite (s.platform.csrBase + 0x0C) 4 v :: rest →
      ∃ t, step s = .next t ∧ irq t = false) ∧
    (s.seq = .idle → v.getLsbD 0 = false → s.inputs = .csrWrite (s.platform.csrBase + 0x04) 4 v :: rest →
      ∃ t, step s = .next t ∧ irq t = false)

/-- In IDLE the engine does nothing when its turn comes (R128, R135). -/
def Obligations.IdleEngineDoesNothing : Prop :=
  ∀ (s : State) (rest : List Input), s.seq = .idle → s.engineNext rest → step s = .next { s with inputs := rest }

/-! ### The stage commands (40_keystream.md, 42_padding_trailer.md) -/

/-- NOP (R73): only STATUS changes; the word is 0 and OP = 0 with any other bit is illegal; with IE = 1 it raises irq; from reset it leaves
STATUS = 2. -/
def Obligations.NopCompletes : Prop :=
  (∀ s : State, exec .nop s = .next { s with seq := .idle, status := s.okStatus 0 }) ∧
    decode 0x00000000 = .ok .nop ∧
    (∀ w : Word, w.toNat % 2 ^ 4 = 0 → w ≠ 0 → ∃ e, decode w = .error e) ∧
    (∀ s t : State, s.ctrl.ie = true → exec .nop s = .next t → irq t = true) ∧
    ∃ t, step (State.reset.withFetchWord 32 0) = .next t ∧ csrReadValue t 0x08 = 0x00000002#32

/-- LCG_SEED (R74): LCG_STATE takes ARG, whatever it is, and only STATUS changes besides. -/
def Obligations.LcgSeedCompletes : Prop :=
  (∀ s : State, exec .lcgSeed s = .next { s with lcgState := s.arg, seq := .idle, status := s.okStatus 0 }) ∧
    decode 0x00000003 = .ok .lcgSeed

/-- LCG_NEXT (R75, with the step of R65 and the byte of R66), and its corner cases. -/
def Obligations.LcgNextCompletes : Prop :=
  (∀ s : State, ∃ (x : Word) (b : Byte),
    exec .lcgNext s = .next { s with lcgState := x, result := b, seq := .idle, status := s.okStatus 0 } ∧
      x.toNat = (s.lcgState.toNat * 0x41C64E6D + 12345) % 2 ^ 32 ∧ b.toNat = x.toNat / 2 ^ 16 % 2 ^ 8 ∧
      (s.lcgState = 0 → x = 0x00003039 ∧ b = 0x00) ∧
      (s.lcgState = 0xFFFFFFFF → x = 0xBE39E1CC ∧ b = 0x39) ∧
      (s.lcgState = 0x00003039 → x = 0xD3DC167E ∧ b = 0xDC)) ∧
    decode 0x00000004 = .ok .lcgNext

/-- LCG_BLOCK (R76): with its 256-byte destination in bounds and within DST_CAP it stores, in order, the RESULT bytes of 256 LCG_NEXT commands
run one after another from the same state, and leaves the LCG_STATE they leave; otherwise it is a RegionFault.
The last part is the rule's example. -/
def Obligations.LcgBlockCompletes : Prop :=
  ∀ s : State,
    (s.dstAddr.toNat + 256 ≤ s.platform.memSize ∧ 256 ≤ s.dstCap.toNat →
      ∃ (t : State) (f : Nat → State),
        f 0 = s ∧ (∀ k, exec .lcgNext (f k) = .next (f (k + 1))) ∧ exec .lcgBlock s = .next t ∧
          t = { s with
            mem := t.mem
            lcgState := (f 256).lcgState
            dstLen := 256
            seq := .idle
            status := s.okStatus 0 } ∧
          (∀ k < 256, t.mem.read (s.dstAddr.toNat + k) = (f (k + 1)).result) ∧
          (∀ a, a < s.dstAddr.toNat ∨ s.dstAddr.toNat + 256 ≤ a → t.mem.read a = s.mem.read a) ∧
          (s.lcgState = 12345 → t.lcgState = 0xF2CAE739 ∧
            t.mem.readBytes s.dstAddr.toNat 16 =
              [0xDC, 0x04, 0x65, 0xAA, 0x1F, 0xAD, 0x1D, 0x5A, 0xDA, 0xE5, 0xAC, 0x1B, 0x1E, 0x5F, 0x13, 0x70])) ∧
    (¬(s.dstAddr.toNat + 256 ≤ s.platform.memSize ∧ 256 ≤ s.dstCap.toNat) →
      exec .lcgBlock s = .next (s.failed 7)) ∧
    decode 0x00000005 = .ok .lcgBlock

/-- ROT_BLOCK (R77, with the block of R70): byte 32g + j of the destination is IV byte j rotated left by g; InvalidIv is checked before
the regions. -/
def Obligations.RotBlockCompletes : Prop :=
  ∀ s : State,
    (s.ivLen.toNat ≠ 32 → exec .rotBlock s = .next (s.failed 2)) ∧
    (s.ivLen.toNat = 32 →
      ¬(s.ivAddr.toNat + 32 ≤ s.platform.memSize ∧ s.dstAddr.toNat + 256 ≤ s.platform.memSize ∧
          256 ≤ s.dstCap.toNat ∧ ¬meet s.dstAddr.toNat 256 s.ivAddr.toNat 32) →
      exec .rotBlock s = .next (s.failed 7)) ∧
    (s.ivLen.toNat = 32 → s.ivAddr.toNat + 32 ≤ s.platform.memSize → s.dstAddr.toNat + 256 ≤ s.platform.memSize →
      256 ≤ s.dstCap.toNat → ¬meet s.dstAddr.toNat 256 s.ivAddr.toNat 32 →
      ∃ t, exec .rotBlock s = .next t ∧
        t = { s with mem := t.mem, dstLen := 256, seq := .idle, status := s.okStatus 0 } ∧
        (∀ g < 8, ∀ j < 32,
          t.mem.read (s.dstAddr.toNat + (32 * g + j)) = (s.mem.read (s.ivAddr.toNat + j)).rotateLeft g) ∧
        ∀ a, a < s.dstAddr.toNat ∨ s.dstAddr.toNat + 256 ≤ a → t.mem.read a = s.mem.read a) ∧
    decode 0x00000006 = .ok .rotBlock

/-- LCG_TAG (R100, with the tags of R93): one LCG step, and RESULT is tag B, tag A or tag A′ of the new byte as TAGB and TAGGEN say; the
rule's example; and any other word with OP = 7 is illegal. -/
def Obligations.LcgTagCompletes : Prop :=
  (∀ (s : State) (useB : Bool), ∃ (x : Word) (r : Byte),
    exec (.lcgTag useB) s = .next { s with lcgState := x, result := r, seq := .idle, status := s.okStatus 0 } ∧
      x.toNat = (s.lcgState.toNat * 0x41C64E6D + 12345) % 2 ^ 32 ∧
      (useB = true → r.toNat = (x.toNat / 2 ^ 16 % 2 ^ 8) &&& 0xE3 ||| 0x10) ∧
      (useB = false → s.ctrl.tagGen = false → r.toNat = (x.toNat / 2 ^ 16 % 2 ^ 8) &&& 0xE3 ||| 0x08) ∧
      (useB = false → s.ctrl.tagGen = true → r.toNat = (x.toNat / 2 ^ 16 % 2 ^ 8) &&& 0xF3 ||| 0x08) ∧
      (s.lcgState = 0xF2CAE739 → x = 0x81EE017E ∧ r = if useB then 0xF2 else 0xEA)) ∧
    decode 0x00000007 = .ok (.lcgTag false) ∧ decode 0x00000107 = .ok (.lcgTag true) ∧
    ∀ w : Word, w.toNat % 2 ^ 4 = 7 → w ≠ 0x00000007 → w ≠ 0x00000107 → ∃ e, decode w = .error e

/-! ### The codec (41_chain.md, 42_padding_trailer.md, 43_codec.md) -/

/-- ENC completes (R103, R104) under conditions on the state and the operands alone: the effective version is a wire version, the plaintext is
not empty, a supplied header has its length, the regions pass R42, and the collaborators it calls return. The output is Encode of the source bytes
under the supplied or drawn header; the memory changes nowhere else. -/
def Obligations.EncCompletes : Prop :=
  ∀ (ver : Nat) (ivs tagb : Bool) (s : State) (v : Version),
    Version.ofNumber (effVer ver s.ctrl) = some v →
    0 < s.srcLen.toNat → (ivs = true → s.ivLen.toNat = v.headerLen) →
    s.srcAddr.toNat + s.srcLen.toNat ≤ s.platform.memSize →
    (ivs = true → s.ivAddr.toNat + v.headerLen ≤ s.platform.memSize) →
    s.dstAddr.toNat + v.payloadLen s.srcLen.toNat ≤ s.platform.memSize →
    v.payloadLen s.srcLen.toNat ≤ s.dstCap.toNat →
    ¬meet s.dstAddr.toNat (v.payloadLen s.srcLen.toNat) s.srcAddr.toNat s.srcLen.toNat →
    (ivs = true → ¬meet s.dstAddr.toNat (v.payloadLen s.srcLen.toNat) s.ivAddr.toNat v.headerLen) →
    s.hung.blocks v.encodeCalls = false →
    ∃ t out, exec (.enc ver ivs tagb) s = .next t ∧
      out = encodePayload Config.collaborators s.platform.v2Trailer v
        (s.mem.readBytes s.srcAddr.toNat s.srcLen.toNat)
        (if ivs then s.mem.readBytes s.ivAddr.toNat v.headerLen
          else freeBytes Config.entropyByte s.draws v.headerLen) tagb s.ctrl.tagGen ∧
      t = { s with
        mem := t.mem
        dstLen := BitVec.ofNat 32 (v.payloadLen s.srcLen.toNat)
        seq := .idle
        status := s.okStatus v.number
        draws := if ivs then s.draws else s.draws + v.headerLen } ∧
      t.mem.readBytes s.dstAddr.toNat (v.payloadLen s.srcLen.toNat) = out ∧
      ∀ a, a < s.dstAddr.toNat ∨ s.dstAddr.toNat + v.payloadLen s.srcLen.toNat ≤ a → t.mem.read a = s.mem.read a

/-- ENC's errors, in the order of R124: InvalidVersion, InvalidInput, InvalidIv, RegionFault; each leaves STATUS and DST_LEN changed and nothing
else (R103, R123). -/
def Obligations.EncErrors : Prop :=
  ∀ (ver : Nat) (ivs tagb : Bool) (s : State),
    (effVer ver s.ctrl ∉ [1, 2, 3, 4, 5] → exec (.enc ver ivs tagb) s = .next (s.failed 3)) ∧
    ∀ v : Version, Version.ofNumber (effVer ver s.ctrl) = some v →
      (s.srcLen.toNat = 0 → exec (.enc ver ivs tagb) s = .next (s.failed 1)) ∧
      (s.srcLen.toNat ≠ 0 → ivs = true → s.ivLen.toNat ≠ v.headerLen →
        exec (.enc ver ivs tagb) s = .next (s.failed 2)) ∧
      (s.srcLen.toNat ≠ 0 → (ivs = true → s.ivLen.toNat = v.headerLen) →
        (s.platform.memSize < s.srcAddr.toNat + s.srcLen.toNat ∨
          (ivs = true ∧ s.platform.memSize < s.ivAddr.toNat + v.headerLen) ∨
          s.platform.memSize < s.dstAddr.toNat + v.payloadLen s.srcLen.toNat ∨
          s.dstCap.toNat < v.payloadLen s.srcLen.toNat ∨
          meet s.dstAddr.toNat (v.payloadLen s.srcLen.toNat) s.srcAddr.toNat s.srcLen.toNat ∨
          (ivs = true ∧ meet s.dstAddr.toNat (v.payloadLen s.srcLen.toNat) s.ivAddr.toNat v.headerLen)) →
        exec (.enc ver ivs tagb) s = .next (s.failed 7))

/-- The wire formats (R101): the lengths of each version, their residues modulo 256, the header in clear for versions 1 to 4, and the trailer:
for version 3 tag B when TAGB = 1 and otherwise tag A of the generation, of the seed's 257th byte (R106). -/
def Obligations.PayloadLayout : Prop :=
  ∀ (c : Config.Collaborators) (t : Byte) (v : Version) (m hdr : List Byte) (useB gen : Bool),
    1 ≤ m.length → hdr.length = v.headerLen →
    ∃ body : List Byte, body.length = m.length + 256 - m.length % 256 ∧
      match v with
      | .v1 => encodePayload c t v m hdr useB gen = hdr ++ body ∧ (32 + body.length) % 256 = 32
      | .v2 => encodePayload c t v m hdr useB gen = hdr ++ body ++ [t] ∧ (33 + body.length) % 256 = 33
      | .v3 =>
        encodePayload c t v m hdr useB gen =
            hdr ++ body ++
              [if useB then tagB (trailerByte (be32 hdr)) else tagA (trailerByte (be32 hdr)) gen] ∧
          (5 + body.length) % 256 = 5
      | .v4 => encodePayload c t v m hdr useB gen = hdr ++ body ++ [0x21] ∧ (5 + body.length) % 256 = 5
      | .v5 =>
        encodePayload c t .v4 m hdr useB gen = hdr ++ body ++ [0x21] ∧
          encodePayload c t v m hdr useB gen = c.obf (hdr ++ body) ++ [0x23] ∧ (5 + body.length) % 256 = 5

/-- DEC completes (R111) when the length selects a family and reaches its minimum (R109, R110), the regions pass R42, the collaborators return,
and, for a version-3 payload, the trailer is one the seed gives (R98). It writes the whole padded plaintext and DST_LEN is what Unpad keeps. -/
def Obligations.DecCompletes : Prop :=
  ∀ (s : State) (fam : Family) (p : List Byte),
    (fam = .v1 ∧ s.srcLen.toNat % 256 = 32 ∧ 288 ≤ s.srcLen.toNat ∨
      fam = .v2 ∧ s.srcLen.toNat % 256 = 33 ∧ 289 ≤ s.srcLen.toNat ∨
      fam = .tagged ∧ s.srcLen.toNat % 256 = 5 ∧ 261 ≤ s.srcLen.toNat) →
    p = s.mem.readBytes s.srcAddr.toNat s.srcLen.toNat →
    s.srcAddr.toNat + s.srcLen.toNat ≤ s.platform.memSize →
    s.dstAddr.toNat + (s.srcLen.toNat - s.srcLen.toNat % 256) ≤ s.platform.memSize →
    s.srcLen.toNat - s.srcLen.toNat % 256 ≤ s.dstCap.toNat →
    ¬meet s.dstAddr.toNat (s.srcLen.toNat - s.srcLen.toNat % 256) s.srcAddr.toNat s.srcLen.toNat →
    (fam.version p = .v3 → trailerAccepted (s.mem.read (s.srcAddr.toNat + (s.srcLen.toNat - 1)))
      (be32 (p.take 4)) s.ctrl.tagGen = true) →
    s.hung.blocks (fam.version p).decodeCalls = false →
    ∃ t out, exec .dec s = .next t ∧
      decodePayload Config.collaborators s.ctrl.tagGen (fam.version p) p = .ok out ∧
      out.length = s.srcLen.toNat - s.srcLen.toNat % 256 ∧
      t = { s with
        mem := t.mem
        dstLen := BitVec.ofNat 32 (out.length - (out.getD (out.length - 1) 0).toNat)
        seq := .idle
        status := s.okStatus (fam.version p).number } ∧
      t.mem.readBytes s.dstAddr.toNat out.length = out ∧
      ∀ a, a < s.dstAddr.toNat ∨ s.dstAddr.toNat + out.length ≤ a → t.mem.read a = s.mem.read a

/-- DEC's errors, in the order of R124: InvalidLength by residue (R109) and by minimum (R110), RegionFault, and IntegrityFailure for a version-3
trailer that is neither tag of the seed's 257th byte (R98, R114). -/
def Obligations.DecErrors : Prop :=
  ∀ s : State,
    (s.srcLen.toNat % 256 ∉ [32, 33, 5] ∨ s.srcLen.toNat ∈ [32, 33, 5] → exec .dec s = .next (s.failed 4)) ∧
    (s.srcLen.toNat % 256 ∈ [32, 33, 5] → 256 ≤ s.srcLen.toNat →
      (s.platform.memSize < s.srcAddr.toNat + s.srcLen.toNat ∨
          s.platform.memSize < s.dstAddr.toNat + (s.srcLen.toNat - s.srcLen.toNat % 256) ∨
          s.dstCap.toNat < s.srcLen.toNat - s.srcLen.toNat % 256 ∨
          meet s.dstAddr.toNat (s.srcLen.toNat - s.srcLen.toNat % 256) s.srcAddr.toNat s.srcLen.toNat →
        exec .dec s = .next (s.failed 7)) ∧
      (s.srcLen.toNat % 256 = 5 →
        s.srcAddr.toNat + s.srcLen.toNat ≤ s.platform.memSize →
        s.dstAddr.toNat + (s.srcLen.toNat - s.srcLen.toNat % 256) ≤ s.platform.memSize →
        s.srcLen.toNat - s.srcLen.toNat % 256 ≤ s.dstCap.toNat →
        ¬meet s.dstAddr.toNat (s.srcLen.toNat - s.srcLen.toNat % 256) s.srcAddr.toNat s.srcLen.toNat →
        s.mem.read (s.srcAddr.toNat + (s.srcLen.toNat - 1)) ∉
            [0x21, 0x23, tagA (trailerByte (be32 (s.mem.readBytes s.srcAddr.toNat 4))) s.ctrl.tagGen,
              tagB (trailerByte (be32 (s.mem.readBytes s.srcAddr.toNat 4)))] →
        exec .dec s = .next (s.failed 5)))

/-- The version every completion reports (R117): the effective version after a successful ENC, the version the length and the trailer byte give
after a successful DEC (R109, R113), and 0 after any other completion. -/
def Obligations.CompletionReportsVersion : Prop :=
  ∀ (s t : State) (w : Word) (rest : List Input),
    s.seq = .busy w → s.engineNext rest → step s = .next t → t.seq = .idle →
    (∀ ver ivs tagb, decode w = .ok (.enc ver ivs tagb) → t.status.ecode = 0 →
      t.status.dver.toNat = effVer ver s.ctrl) ∧
    (decode w = .ok .dec → t.status.ecode = 0 →
      t.status.dver.toNat =
        if s.srcLen.toNat % 256 = 32 then 1
        else if s.srcLen.toNat % 256 = 33 then 2
        else if s.mem.read (s.srcAddr.toNat + (s.srcLen.toNat - 1)) = 0x23 then 5
        else if s.mem.read (s.srcAddr.toNat + (s.srcLen.toNat - 1)) = 0x21 then 4
        else 3) ∧
    (t.status.ecode ≠ 0 ∨ decode w ≠ .ok .dec ∧ (∀ ver ivs tagb, decode w ≠ .ok (.enc ver ivs tagb)) →
      t.status.dver = 0)

/-- The round trip (R118): a DEC of what an ENC wrote, under the same TAGGEN, completes with code 0, reports ENC's version, and its first DST_LEN
bytes are the plaintext, or the plaintext and 256 zeros when its length is a multiple of 256. Under the other TAGGEN a version-3 payload with
tag A whose PRNG byte has bit 4 set is an IntegrityFailure. -/
def Obligations.EncDecRoundTrip : Prop :=
  ∀ (ver : Nat) (ivs tagb : Bool) (s t u : State),
    s.hung.none → u.hung.none → exec (.enc ver ivs tagb) s = .next t → t.status.ecode = 0 →
    u.srcLen = t.dstLen →
    u.mem.readBytes u.srcAddr.toNat u.srcLen.toNat = t.mem.readBytes t.dstAddr.toNat t.dstLen.toNat →
    u.srcAddr.toNat + u.srcLen.toNat ≤ u.platform.memSize →
    u.dstAddr.toNat + paddedLen s.srcLen.toNat ≤ u.platform.memSize →
    paddedLen s.srcLen.toNat ≤ u.dstCap.toNat →
    ¬meet u.dstAddr.toNat (paddedLen s.srcLen.toNat) u.srcAddr.toNat u.srcLen.toNat →
    (u.ctrl.tagGen = s.ctrl.tagGen →
      ∃ x, exec .dec u = .next x ∧ x.seq = .idle ∧ x.status = u.okStatus t.status.dver ∧
        x.mem.readBytes u.dstAddr.toNat x.dstLen.toNat =
          if s.srcLen.toNat % 256 = 0 then s.mem.readBytes s.srcAddr.toNat s.srcLen.toNat ++ List.replicate 256 0
          else s.mem.readBytes s.srcAddr.toNat s.srcLen.toNat) ∧
    (u.ctrl.tagGen ≠ s.ctrl.tagGen → t.status.dver = 3 → tagb = false →
      (trailerByte (be32 (u.mem.readBytes u.srcAddr.toNat 4))).getLsbD 4 = true →
      exec .dec u = .next (u.failed 5))

/-- ENC and DEC neither read nor write the architected LCG_STATE (R33, R106, R114): with another LCG_STATE they answer the same, but for
LCG_STATE itself. -/
def Obligations.CodecIgnoresLcgState : Prop :=
  ∀ (s : State) (x : Word) (i : Instr), (i = .dec ∨ ∃ ver ivs tagb, i = .enc ver ivs tagb) →
    ∃ t, exec i s = .next t ∧ t.lcgState = s.lcgState ∧
      exec i { s with lcgState := x } = .next { t with lcgState := x }

/-- Determinism (R119): two successful ENCs with the same source bytes, header bytes (supplied or drawn), effective version, TAGB, TAGGEN and
V2_TRAILER write the same bytes and report the same, wherever their regions lie and whatever else the states hold; and DEC is a function of
its source bytes and TAGGEN. -/
def Obligations.CodecIsAFunctionOfItsInputs : Prop :=
  (∀ (ver ver' : Nat) (ivs ivs' tagb : Bool) (s u t x : State) (v : Version),
    s.hung.none → u.hung.none →
    exec (.enc ver ivs tagb) s = .next t → exec (.enc ver' ivs' tagb) u = .next x →
    t.status.ecode = 0 → x.status.ecode = 0 →
    Version.ofNumber (effVer ver s.ctrl) = some v → effVer ver' u.ctrl = effVer ver s.ctrl →
    u.ctrl.tagGen = s.ctrl.tagGen → u.platform.v2Trailer = s.platform.v2Trailer → u.srcLen = s.srcLen →
    u.mem.readBytes u.srcAddr.toNat u.srcLen.toNat = s.mem.readBytes s.srcAddr.toNat s.srcLen.toNat →
    (encHeader ivs' v.headerLen u).1 = (encHeader ivs v.headerLen s).1 →
    x.dstLen = t.dstLen ∧ x.status.dver = t.status.dver ∧
      x.mem.readBytes u.dstAddr.toNat x.dstLen.toNat = t.mem.readBytes s.dstAddr.toNat t.dstLen.toNat) ∧
  ∀ s u t x : State,
    s.hung.none → u.hung.none → exec .dec s = .next t → exec .dec u = .next x →
    t.status.ecode ≠ 7 → x.status.ecode ≠ 7 → u.ctrl.tagGen = s.ctrl.tagGen → u.srcLen = s.srcLen →
    u.mem.readBytes u.srcAddr.toNat u.srcLen.toNat = s.mem.readBytes s.srcAddr.toNat s.srcLen.toNat →
    x.status.ecode = t.status.ecode ∧ x.status.dver = t.status.dver ∧ x.dstLen = t.dstLen ∧
      (t.status.ecode = 0 →
        x.mem.readBytes u.dstAddr.toNat (s.srcLen.toNat - s.srcLen.toNat % 256) =
          t.mem.readBytes s.dstAddr.toNat (s.srcLen.toNat - s.srcLen.toNat % 256))

/-- The shape of the padded plaintext (R88, R90): its length, the plaintext, the zeros, and the pad length byte in the last place. -/
def Obligations.PadShape : Prop :=
  ∀ m : List Byte, 1 ≤ m.length →
    ∃ p : Nat, p = 256 - m.length % 256 ∧ 1 ≤ p ∧ p ≤ 256 ∧ (pad m).length = m.length + p ∧
      (pad m).length % 256 = 0 ∧ 256 ≤ (pad m).length ∧ (pad m).take m.length = m ∧
      (∀ k, m.length ≤ k → k + 1 < m.length + p → (pad m)[k]? = some 0) ∧
      (pad m)[m.length + p - 1]? = some (BitVec.ofNat 8 (p % 256)) ∧
      (m.length % 256 = 0 → p = 256 ∧ (pad m).drop m.length = List.replicate 256 0)

/-- The padding laws (R92). -/
def Obligations.PadUnpadLaws : Prop :=
  (∀ m : List Byte, 1 ≤ m.length → m.length % 256 ≠ 0 → unpad (pad m) = m) ∧
  (∀ m : List Byte, 1 ≤ m.length → m.length % 256 = 0 → unpad (pad m) = m ++ List.replicate 256 0) ∧
  ∀ p : List Byte, 256 ≤ p.length → 1 ≤ (unpad p).length ∧ (unpad p).length ≤ p.length

/-- Tags A, A′ and B are never the fixed tags, so the trailer of a version-3 encode is never read as version 4 or 5 (R95). -/
def Obligations.TagsNeverFixed : Prop :=
  (∀ (b : Byte) (gen : Bool),
    (tagA b gen).getLsbD 3 = true ∧ (tagB b).getLsbD 4 = true ∧ (0x21#8).getLsbD 3 = false ∧
      (0x23#8).getLsbD 3 = false ∧ (0x21#8).getLsbD 4 = false ∧ (0x23#8).getLsbD 4 = false) ∧
  ∀ (p : List Byte) (b : Byte) (useB gen : Bool),
    tag b useB gen ≠ 0x21 ∧ tag b useB gen ≠ 0x23 ∧ Family.version .tagged (p ++ [tag b useB gen]) = .v3

/-- What the trailer detects (R99): with TAGGEN = 0 every single-bit flip of a version-3 trailer is an IntegrityFailure, but for the flips that
give 0x21 or 0x23; with TAGGEN = 1 and b[4] = 1, flipping bit 3 of tag A′ gives tag B; and a change of the body is not detected. -/
def Obligations.TrailerDetection : Prop :=
  (∀ (c : Config.Collaborators) (hdr body : List Byte) (useB : Bool) (k : Nat) (b t : Byte),
    hdr.length = 4 → k < 8 → b = trailerByte (be32 hdr) → t = tag b useB false ^^^ (1#8 <<< k) →
    (Family.version .tagged (hdr ++ body ++ [t]) = .v3 ∧
      decodePayload c false .v3 (hdr ++ body ++ [t]) = .error .integrityFailure) ∨
    (k = (if useB then 4 else 3) ∧
      (b &&& 0xE3 = 0x21 ∧ t = 0x21 ∧ Family.version .tagged (hdr ++ body ++ [t]) = .v4 ∨
        b &&& 0xE3 = 0x23 ∧ t = 0x23 ∧ Family.version .tagged (hdr ++ body ++ [t]) = .v5))) ∧
  (∀ b : Byte, b.getLsbD 4 = true → tagA b true ^^^ (1#8 <<< 3) = tagB b) ∧
  ∀ (c : Config.Collaborators) (gen : Bool) (hdr body body' : List Byte) (t : Byte),
    hdr.length = 4 → body.length = body'.length →
    (decodePayload c gen .v3 (hdr ++ body ++ [t]) = .error .integrityFailure ↔
      decodePayload c gen .v3 (hdr ++ body' ++ [t]) = .error .integrityFailure)

/-- ChainDec undoes ChainEnc for every block permutation with an inverse (R86, item 1). -/
def Obligations.ChainInverse : Prop :=
  ∀ (f g : List Byte → List Byte) (b : Nat) (k0 m : List Byte),
    0 < b → (∀ x, x.length = b → (f x).length = b) → (∀ x, x.length = b → g (f x) = x) →
    k0.length = b → m.length % b = 0 → chainDec g b k0 (chainEnc f b k0 m) = m

/-- Decrypting block i reads only ciphertext blocks i and i-1, so a ciphertext changed in block j alone decrypts to a message changed in
blocks j and j+1 at most (R86, items 2 and 3). -/
def Obligations.ChainContainment : Prop :=
  ∀ (g : List Byte → List Byte) (b : Nat) (k0 c : List Byte),
    0 < b → (∀ x, x.length = b → (g x).length = b) → k0.length = b → c.length % b = 0 →
    (∀ i < c.length / b,
      slice (chainDec g b k0 c) (i * b) ((i + 1) * b) =
        xorBytes (g (slice c (i * b) ((i + 1) * b))) (if i = 0 then k0 else slice c ((i - 1) * b) (i * b))) ∧
    ∀ (c' : List Byte) (j : Nat), c'.length = c.length →
      (∀ i < c.length / b, i ≠ j → slice c' (i * b) ((i + 1) * b) = slice c (i * b) ((i + 1) * b)) →
      ∀ i < c.length / b, i ≠ j → i ≠ j + 1 →
        slice (chainDec g b k0 c') (i * b) ((i + 1) * b) = slice (chainDec g b k0 c) (i * b) ((i + 1) * b)

/-- The seed header is big-endian (R8, R44). -/
def Obligations.SeedHeaderIsBigEndian : Prop :=
  ∀ a b c d : Byte,
    (be32 [a, b, c, d]).toNat = a.toNat * 2 ^ 24 + b.toNat * 2 ^ 16 + c.toNat * 2 ^ 8 + d.toNat ∧
      be32Bytes (be32 [a, b, c, d]) = [a, b, c, d]

/-! ### Whole-machine rules (20_memory.md, 60_exceptions.md, 70_reset_and_hazards.md) -/

/-- What a command changes (R43, R29, R33, R34): no operand register, no CTRL, not OVR; memory only in the destination its rule names, never
a byte of a region it reads, and not at all when it completes with an error; LCG_STATE, RESULT and DST_LEN only where its rule says. -/
def Obligations.CommandFrame : Prop :=
  ∀ (i : Instr) (s t : State), exec i s = .next t →
    (t.platform = s.platform ∧ t.ctrl = s.ctrl ∧ t.srcAddr = s.srcAddr ∧ t.srcLen = s.srcLen ∧ t.dstAddr = s.dstAddr ∧
      t.dstCap = s.dstCap ∧ t.ivAddr = s.ivAddr ∧ t.ivLen = s.ivLen ∧ t.arg = s.arg ∧ t.status.ovr = s.status.ovr ∧
      t.hung = s.hung ∧ t.unobserved = s.unobserved ∧ t.host = s.host ∧ t.inputs = s.inputs) ∧
    (∀ a, (∀ d, (activeRegions i s).dst = some d → d.has a = false) → t.mem.read a = s.mem.read a) ∧
    (∀ r ∈ (activeRegions i s).reads, ∀ a, r.has a = true → t.mem.read a = s.mem.read a) ∧
    (t.status.ecode ≠ 0 → t.mem = s.mem) ∧
    (i ∉ [.lcgSeed, .lcgNext, .lcgBlock, .lcgTag false, .lcgTag true] → t.lcgState = s.lcgState) ∧
    (i ∉ [.lcgNext, .lcgTag false, .lcgTag true] → t.result = s.result) ∧
    (i ∈ [.nop, .lcgSeed, .lcgNext, .lcgTag false, .lcgTag true] → t.dstLen = s.dstLen) ∧
    ((∀ ver tagb, i ≠ .enc ver false tagb) → t.draws = s.draws)

/-- An error completion (R123): STATUS is as the rule says, DST_LEN goes to 0 unless the word is illegal, and nothing else changes, so the next
command can be accepted at once. -/
def Obligations.ErrorCompletion : Prop :=
  ∀ (s t : State) (w : Word) (rest : List Input),
    s.seq = .busy w → s.engineNext rest → step s = .next t → t.seq = .idle → t.status.ecode ≠ 0 →
    t = { s with
      inputs := rest
      seq := .idle
      dstLen := match decode w with
        | .ok _ => 0
        | .error _ => s.dstLen
      status := { done := true, err := true, ovr := s.status.ovr, ecode := t.status.ecode, dver := 0 } }

/-- An accepted command completes at the engine's next turn if the collaborators return (R16, R145, R122): the sequencer is IDLE, DONE is 1, ERR
says whether the code is 0, and the code is one of the eight. -/
def Obligations.AcceptedCommandCompletes : Prop :=
  ∀ (s : State) (w : Word) (rest : List Input),
    s.seq = .busy w → s.engineNext rest → s.hung.none →
    ∃ t, step s = .next t ∧ t.seq = .idle ∧ t.inputs = rest ∧ t.status.done = true ∧
      (t.status.err = true ↔ t.status.ecode ≠ 0) ∧ t.status.ecode.toNat ≤ 7

/-- Every run whose collaborators return is over one step after its last input, unless it faults or is refused (R145, R147). That the engine moves
when no input is left is the model's form of weak fairness (log 1). -/
def Obligations.RunReachesItsEnd : Prop :=
  ∀ s t : State, s.collaboratorsReturn →
    steps (s.inputs.length + 1) s = .next t → t.over

/-- A collaborator that does not return leaves the engine BUSY for ever (R82, R125): the machine's state does not change in any number of engine
turns. -/
def Obligations.HangLeavesBusy : Prop :=
  (∀ (ver : Nat) (ivs tagb : Bool) (w : Word) (s : State) (v : Version) (n : Nat),
    s.seq = .busy w → s.inputs = [] → decode w = .ok (.enc ver ivs tagb) → encVersion ver ivs s = .ok v →
    regionsOk s (encReads ivs s) (dstRegion s (v.payloadLen s.srcLen.toNat)) = true →
    s.hung.blocks v.encodeCalls = true → steps n s = .next s) ∧
  ∀ (w : Word) (s : State) (fam : Family) (p out : List Byte) (n : Nat),
    s.seq = .busy w → s.inputs = [] → decode w = .ok .dec → decFamily s = .ok fam →
    regionsOk s [srcRegion s] (dstRegion s (bodyLen fam s)) = true →
    p = s.mem.readBytes s.srcAddr.toNat s.srcLen.toNat →
    decodePayload Config.collaborators s.ctrl.tagGen (fam.version p) p = .ok out →
    s.hung.blocks (fam.version p).decodeCalls = true → steps n s = .next s

/-- A host write of bytes (R40, R50): HostRace when it shares an address with an active region, carried out when it shares none, and a fault when
its addresses do not exist (that last fault is the model's: log 12). -/
def Obligations.HostWriteRaces : Prop :=
  ∀ (s : State) (a : Nat) (bs : List Byte) (rest : List Input), s.inputs = .memWrite a bs :: rest →
    (a + bs.length ≤ s.platform.memSize →
      (∃ x ∈ s.unobserved, ∃ r, (r ∈ x.reads ∨ x.dst = some r) ∧ meet a bs.length r.base r.len) →
      step s = .fault .hostRace) ∧
    (a + bs.length ≤ s.platform.memSize →
      (∀ x ∈ s.unobserved, ∀ r, (r ∈ x.reads ∨ x.dst = some r) → ¬meet a bs.length r.base r.len) →
      step s = .next { s with inputs := rest, mem := s.mem.writeBytes a bs }) ∧
    (s.platform.memSize < a + bs.length → step s = .fault .hostBadAddress)

/-- After an accepted command a host write into an active region is HostRace, if nothing is observed between (R50, R140): the source of ENC
and DEC, a supplied IV region of ENC, the IV region of ROT_BLOCK, the 256-byte destination of LCG_BLOCK and of ROT_BLOCK, and the destination
of ENC and DEC. That the destination counts whenever the rules give its length, also when the command will fail, is the model's reading
(log 7). -/
def Obligations.RaceAfterAcceptance : Prop :=
  ∀ (s : State) (i : Instr) (a : Nat) (b : Byte) (rest : List Input),
    i.wf = true → s.seq = .idle → a < s.platform.memSize →
    s.inputs = .csrWrite (s.platform.csrBase + 0x0C) 4 (encode i) :: .memWrite a [b] :: rest →
    ((i = .dec ∨ ∃ ver ivs tagb, i = .enc ver ivs tagb) →
      s.srcAddr.toNat ≤ a → a < s.srcAddr.toNat + s.srcLen.toNat →
      steps 2 s = .fault .hostRace) ∧
    (∀ ver tagb, i = .enc ver true tagb → s.ivAddr.toNat ≤ a → a < s.ivAddr.toNat + s.ivLen.toNat →
      steps 2 s = .fault .hostRace) ∧
    (∀ ver ivs tagb v, i = .enc ver ivs tagb → Version.ofNumber (effVer ver s.ctrl) = some v →
      s.dstAddr.toNat ≤ a → a < s.dstAddr.toNat + v.payloadLen s.srcLen.toNat →
      steps 2 s = .fault .hostRace) ∧
    (∀ fam, i = .dec → Family.ofLength s.srcLen.toNat = some fam →
      s.dstAddr.toNat ≤ a → a < s.dstAddr.toNat + (s.srcLen.toNat - s.srcLen.toNat % 256) →
      steps 2 s = .fault .hostRace) ∧
    (i = .rotBlock → s.ivAddr.toNat ≤ a → a < s.ivAddr.toNat + s.ivLen.toNat → steps 2 s = .fault .hostRace) ∧
    ((i = .lcgBlock ∨ i = .rotBlock) → s.dstAddr.toNat ≤ a → a < s.dstAddr.toNat + 256 →
      steps 2 s = .fault .hostRace)

/-- What ends the hazard (R141): a STATUS read with BUSY = 0 and DONE = 1, or a sample of irq = 1; any other STATUS read or sample leaves it. -/
def Obligations.ObservationEndsHazard : Prop :=
  ∀ (s : State) (rest : List Input),
    (s.inputs = .csrRead (s.platform.csrBase + 0x08) 4 :: rest →
      ∃ t, step s = .next t ∧
        t.unobserved = if t.host.csrData.getLsbD 0 = false ∧ t.host.csrData.getLsbD 1 = true then [] else s.unobserved) ∧
    (s.inputs = .irqSample :: rest →
      ∃ t, step s = .next t ∧ t.unobserved = if t.host.irqLevel = true then [] else s.unobserved)

/-- A host read of bytes (R50): outside the destinations of commands whose completion is not observed it returns the memory's bytes, source and IV
regions included; it changes no memory. Of a byte both in such a destination and in a source or IV region it says nothing (log 18). -/
def Obligations.HostReads : Prop :=
  ∀ (s : State) (a n : Nat) (rest : List Input), s.inputs = .memRead a n :: rest → a + n ≤ s.platform.memSize →
    ∃ t, step s = .next t ∧ t.mem = s.mem ∧ t.seq = s.seq ∧ t.unobserved = s.unobserved ∧ t.host.memData.length = n ∧
      ∀ k < n, (∀ x ∈ s.unobserved, ∀ d, x.dst = some d → d.has (a + k) = false) →
        t.host.memData[k]? = some (s.mem.read (a + k))

/-- Reset (R136): every CSR reads its reset value, the sequencer is IDLE, irq is 0, no command is pending; in IDLE the memory is unchanged. -/
def Obligations.ResetSetsEveryRegister : Prop :=
  ∀ (s : State) (rest : List Input), s.inputs = .reset :: rest →
    ∃ t, step s = .next t ∧ t.seq = .idle ∧ irq t = false ∧ t.unobserved = [] ∧ t.platform = s.platform ∧
      t.inputs = rest ∧ (∀ off, csrReadValue t off = if off = 0 then 0x50430005#32 else 0) ∧
      (s.seq = .idle → t.mem = s.mem)

/-- Reset in BUSY(W) (R137): W is abandoned, DONE and DST_LEN are 0, and no byte outside W's destination region, nor any byte of the regions W reads,
changes. Which W has a destination is the model's choice where W will fail (log 7), and that the regions W reads are kept also where they
overlap it is the model's inference (log 8). -/
def Obligations.ResetWhileBusy : Prop :=
  ∀ (s : State) (w : Word) (rest : List Input), s.seq = .busy w → s.inputs = .reset :: rest →
    ∃ t, step s = .next t ∧ t.seq = .idle ∧ t.status.done = false ∧ t.dstLen = 0 ∧
      (∀ a, (∀ d, (wordRegions w s).dst = some d → d.has a = false) → t.mem.read a = s.mem.read a) ∧
      ∀ r ∈ (wordRegions w s).reads, ∀ a, r.has a = true → t.mem.read a = s.mem.read a

/-- The state after power-on reset (R39): every CSR reads 0 but ID, the sequencer is IDLE and irq is 0. -/
def Obligations.ResetValues : Prop :=
  State.reset.seq = .idle ∧ irq State.reset = false ∧
    ∀ off, csrReadValue State.reset off = if off = 0 then 0x50430005#32 else 0

/-- Every step keeps the invariant: the memory stays canonical and inside MEM_SIZE, and STATUS stays as R16, R23, R117 and R122 say. -/
def Obligations.StepKeepsInvariant : Prop :=
  ∀ s t : State, s.Inv → step s = .next t → t.Inv

/-- The invariant holds at reset, and at power-on with any canonical launch memory that fits any MEM_SIZE in range (R138). -/
def Obligations.ResetMeetsInvariant : Prop :=
  State.reset.Inv ∧
    ∀ (p : Platform) (m : Memory) (ins : List Input),
      1 ≤ p.memSize → p.memSize ≤ 2 ^ 32 → m.wf → (∀ c ∈ m, c.1 < p.memSize) → (State.launch p m ins).Inv
end

