-- ==== Sys2Proof/Laws/Codec.lean ====
section
/-! SUPPORT. The lengths and the algebra of the codec's functions: what each function answers, in the terms later proofs use. -/

namespace Sys2Proof.Machine

@[simp] theorem zeros_length (n : Nat) : (zeros n).length = n := by simp [zeros]

@[simp] theorem xorBytes_length (s t : List Byte) : (xorBytes s t).length = min s.length t.length := by
  simp [xorBytes]

/-- XOR with the same string twice restores the first (R8). -/
theorem xorBytes_xorBytes (s t : List Byte) (h : s.length ≤ t.length) : xorBytes (xorBytes s t) t = s := by
  induction s generalizing t with
  | nil => simp [xorBytes]
  | cons a s ih =>
    cases t with
    | nil => simp at h
    | cons b t => simpa [xorBytes, BitVec.xor_assoc] using ih t (by simpa using h)

theorem slice_length (s : List Byte) (a b : Nat) : (slice s a b).length = min (b - a) (s.length - a) := by
  simp [slice]

@[simp] theorem freeBytes_length (f : Nat → Byte) (k n : Nat) : (freeBytes f k n).length = n := by
  induction n generalizing k with
  | zero => rfl
  | succ n ih => simp [freeBytes, ih]

@[simp] theorem drawBytes_length (s : State) (n : Nat) : (drawBytes s n).length = n := by simp [drawBytes]

@[simp] theorem lcgOutputs_length (n : Nat) (s : Word) : (lcgOutputs n s).length = n := by
  induction n generalizing s with
  | zero => rfl
  | succ n ih => simp [lcgOutputs, ih]

@[simp] theorem lcgBlock_length (s : Word) : (lcgBlock s).1.length = 256 := lcgOutputs_length 256 s

/-- `n + k` outputs are `n` outputs and then `k` more (R67). -/
theorem lcgOutputs_add (n k : Nat) (s : Word) :
    lcgOutputs (n + k) s = lcgOutputs n s ++ lcgOutputs k (lcgAfter n s) := by
  induction n generalizing s with
  | zero => simp [lcgOutputs, lcgAfter]
  | succ n ih =>
    have h : n + 1 + k = (n + k) + 1 := by omega
    simp [h, lcgOutputs, lcgAfter, ih]

theorem lcgAfter_add (n k : Nat) (s : Word) : lcgAfter (n + k) s = lcgAfter k (lcgAfter n s) := by
  induction n generalizing s with
  | zero => simp [lcgAfter]
  | succ n ih =>
    have h : n + 1 + k = (n + k) + 1 := by omega
    simp [h, lcgAfter, ih]

/-- The `k`-th output is the byte of the state after `k + 1` steps (R67). -/
theorem lcgOutputs_getD (n k : Nat) (s : Word) (h : k < n) :
    (lcgOutputs n s).getD k 0 = lcgByte (lcgAfter (k + 1) s) := by
  induction n generalizing k s with
  | zero => omega
  | succ n ih =>
    cases k with
    | zero => rfl
    | succ k => simpa [lcgOutputs, lcgAfter] using ih k (lcgStep s) (by omega)

@[simp] theorem rotBlock_length (iv : List Byte) : (rotBlock iv).length = 8 * iv.length := by
  simp [rotBlock, List.range, List.range.loop]; omega

@[simp] theorem shortKey_length (hdr : List Byte) : (shortKey hdr).length = 16 := by
  simp [shortKey, slice_length]

@[simp] theorem pad_length (m : List Byte) : (pad m).length = m.length + padLen m.length := by
  simp [pad]

theorem pad_length_mod (m : List Byte) : (pad m).length % 256 = 0 := by
  simp [padLen]; omega

/-- One block of ChainEnc, then the rest (R84). -/
theorem chainEncBlocks_succ (f : List Byte → List Byte) (b n : Nat) (k m : List Byte) :
    chainEncBlocks f b (n + 1) k m =
      f (xorBytes (m.take b) k) ++ chainEncBlocks f b n (f (xorBytes (m.take b) k)) (m.drop b) := rfl

/-- One block of ChainDec, then the rest (R85). -/
theorem chainDecBlocks_succ (g : List Byte → List Byte) (b n : Nat) (k c : List Byte) :
    chainDecBlocks g b (n + 1) k c =
      xorBytes (g (c.take b)) k ++ chainDecBlocks g b n (c.take b) (c.drop b) := rfl

theorem chainEncBlocks_length (f : List Byte → List Byte) (b : Nat) (hf : ∀ x, x.length = b → (f x).length = b)
    (n : Nat) (k m : List Byte) (hk : k.length = b) (hm : m.length = n * b) :
    (chainEncBlocks f b n k m).length = n * b := by
  induction n generalizing k m with
  | zero => simp [chainEncBlocks]
  | succ n ih =>
    rw [Nat.succ_mul] at hm
    have hc : (f (xorBytes (m.take b) k)).length = b := hf _ (by simp [hk]; omega)
    rw [chainEncBlocks_succ, List.length_append, hc, ih _ _ hc (by simp; omega), Nat.succ_mul]
    omega

theorem chainDecBlocks_length (g : List Byte → List Byte) (b : Nat) (hg : ∀ x, x.length = b → (g x).length = b)
    (n : Nat) (k c : List Byte) (hk : k.length = b) (hc : c.length = n * b) :
    (chainDecBlocks g b n k c).length = n * b := by
  induction n generalizing k c with
  | zero => simp [chainDecBlocks]
  | succ n ih =>
    rw [Nat.succ_mul] at hc
    have ht : (c.take b).length = b := by simp; omega
    have hx : (xorBytes (g (c.take b)) k).length = b := by simp [hg _ ht, hk]
    rw [chainDecBlocks_succ, List.length_append, hx, ih _ _ ht (by simp; omega), Nat.succ_mul]
    omega

/-- ChainEnc keeps the length of a message of whole blocks (R84). -/
theorem chainEnc_length (f : List Byte → List Byte) (b : Nat)
    (hf : ∀ x, x.length = b → (f x).length = b) (k m : List Byte) (hk : k.length = b) (hm : m.length % b = 0) :
    (chainEnc f b k m).length = m.length := by
  have h : m.length = m.length / b * b := (Nat.div_mul_cancel (Nat.dvd_of_mod_eq_zero hm)).symm
  unfold chainEnc
  rw [chainEncBlocks_length f b hf _ k m hk h]
  exact h.symm

/-- ChainDec keeps the length of a ciphertext of whole blocks (R85). -/
theorem chainDec_length (g : List Byte → List Byte) (b : Nat)
    (hg : ∀ x, x.length = b → (g x).length = b) (k c : List Byte) (hk : k.length = b) (hc : c.length % b = 0) :
    (chainDec g b k c).length = c.length := by
  have h : c.length = c.length / b * b := (Nat.div_mul_cancel (Nat.dvd_of_mod_eq_zero hc)).symm
  unfold chainDec
  rw [chainDecBlocks_length g b hg _ k c hk h]
  exact h.symm

/-- Encode gives a payload of `outLen` bytes (R101, R103). -/
theorem encodePayload_length (c : Config.Collaborators) (t : Byte) (v : Version) (m hdr : List Byte) (useB gen : Bool)
    (hh : hdr.length = v.headerLen) : (encodePayload c t v m hdr useB gen).length = v.payloadLen m.length := by
  have hp := pad_length_mod m
  have hp16 : (pad m).length % 16 = 0 := by omega
  have e : padLen m.length + m.length = paddedLen m.length := by simp [padLen, paddedLen]; omega
  cases v <;> simp only [Version.headerLen] at hh <;>
    simp only [encodePayload, bodyIv, bodyLcg, bodyCipher, List.length_append, c.obf_length, List.length_singleton] <;>
    first
    | rw [chainEnc_length _ 256 c.rotFwd_length _ _ (by simp [hh]) hp, pad_length]
    | rw [chainEnc_length _ 16 c.bcEnc_length _ _ (by simp) hp16, pad_length]
  all_goals simp [Version.payloadLen, Version.headerLen, Version.trailerLen, hh]; omega

/-- Decode4 gives all but the header and the trailer (R115). -/
theorem decode4_length (c : Config.Collaborators) (p : List Byte) (h : p.length % 256 = 5) (hl : 261 ≤ p.length) :
    (decode4 c p).length = p.length - 5 := by
  unfold decode4
  rw [chainDec_length _ 16 c.bcDec_length _ _ (by simp)] <;> simp only [slice_length] <;> omega

end Sys2Proof.Machine
end

