-- ==== Sys2Proof/Laws/Memory.lean ====
section
/-! SUPPORT. The laws of the buffer memory: what a read after a write gives, and that every memory operation keeps the
canonical form. -/

namespace Sys2Proof.Machine

@[simp] theorem Memory.read_nil (a : Nat) : Memory.read [] a = Memory.fill := rfl

theorem Memory.read_insertCell (m : Memory) (a x : Nat) (v : Byte) (h : ∀ c ∈ m, c.1 ≠ a) :
    (Memory.insertCell a v m).read x = if x = a then v else m.read x := by
  induction m with
  | nil => simp [Memory.insertCell, Memory.read, eq_comm]
  | cons c rest ih =>
    have hc : c.1 ≠ a := h c (by simp)
    have ih' := ih (fun d hd => h d (by simp [hd]))
    unfold Memory.insertCell
    split
    · simp [Memory.read, eq_comm]
    · simp only [Memory.read, ih']
      by_cases hx : x = a
      · subst hx; simp [hc]
      · simp [hx]

theorem Memory.read_filter (m : Memory) (a x : Nat) :
    Memory.read (m.filter (fun c => c.1 != a)) x = if x = a then Memory.fill else m.read x := by
  induction m with
  | nil => simp
  | cons c rest ih =>
    by_cases hc : c.1 = a <;> by_cases hx : x = a <;> simp_all [Memory.read]
    intro h; exact absurd h.symm hx

/-- A byte written is read back, and every other byte reads as before (R41). -/
@[simp] theorem Memory.read_write (m : Memory) (a x : Nat) (v : Byte) :
    (m.write a v).read x = if x = a then v else m.read x := by
  unfold Memory.write
  simp only
  split
  · rename_i hv; rw [Memory.read_filter, hv]
  · rw [Memory.read_insertCell _ _ _ _ (by intro c hc; simpa using (List.mem_filter.mp hc).2),
      Memory.read_filter]
    split <;> simp

/-- MemWrite read back byte by byte (R41). -/
theorem Memory.read_writeBytes (bs : List Byte) (m : Memory) (a x : Nat) :
    (m.writeBytes a bs).read x =
      if a ≤ x ∧ x < a + bs.length then bs.getD (x - a) 0 else m.read x := by
  induction bs generalizing m a with
  | nil => simp [Memory.writeBytes]
  | cons b bs ih =>
    simp only [Memory.writeBytes, ih, Memory.read_write, List.length_cons]
    by_cases hx : x = a
    · subst hx; simp
    · by_cases hin : a + 1 ≤ x ∧ x < a + 1 + bs.length
      · have h2 : a ≤ x ∧ x < a + (bs.length + 1) := by omega
        have h3 : x - a = (x - (a + 1)) + 1 := by omega
        simp [hin, h2, h3]
      · have h2 : ¬ (a ≤ x ∧ x < a + (bs.length + 1)) := by omega
        simp only [if_neg hin, if_neg h2, if_neg hx]

@[simp] theorem Memory.readBytes_length (m : Memory) (a n : Nat) : (m.readBytes a n).length = n := by
  induction n generalizing a with
  | zero => rfl
  | succ n ih => simp [Memory.readBytes, ih]

theorem Memory.readBytes_getD (m : Memory) (a n k : Nat) (h : k < n) :
    (m.readBytes a n).getD k 0 = m.read (a + k) := by
  induction n generalizing a k with
  | zero => omega
  | succ n ih =>
    cases k with
    | zero => simp [Memory.readBytes]
    | succ k =>
      simp only [Memory.readBytes, List.getD_cons_succ]
      rw [ih (a + 1) k (by omega)]
      congr 1; omega

/-- Equal bytes give equal strings: how MemRead depends on the memory. -/
theorem Memory.readBytes_congr (m m' : Memory) (a n : Nat)
    (h : ∀ x, a ≤ x → x < a + n → m.read x = m'.read x) : m.readBytes a n = m'.readBytes a n := by
  induction n generalizing a with
  | zero => rfl
  | succ n ih =>
    simp only [Memory.readBytes]
    rw [h a (by omega) (by omega), ih (a + 1) (fun x h1 h2 => h x (by omega) (by omega))]

/-- Every byte of a MemRead. -/
theorem Memory.readBytes_getElem? (m : Memory) (a n k : Nat) :
    (m.readBytes a n)[k]? = if k < n then some (m.read (a + k)) else none := by
  induction n generalizing a k with
  | zero => simp [Memory.readBytes]
  | succ n ih =>
    cases k with
    | zero => simp [Memory.readBytes]
    | succ k => simp [Memory.readBytes, ih, Nat.add_assoc, Nat.add_comm 1]

/-- MemRead of what MemWrite wrote (R41). -/
theorem Memory.readBytes_writeBytes (m : Memory) (a : Nat) (out : List Byte) (n : Nat) (h : out.length = n) :
    (m.writeBytes a out).readBytes a n = out := by
  subst h
  apply List.ext_getElem?
  intro k
  rw [Memory.readBytes_getElem?]
  split
  · rename_i hk
    rw [Memory.read_writeBytes, if_pos (by omega), Nat.add_sub_cancel_left, List.getD_eq_getElem?_getD,
      List.getElem?_eq_getElem hk]
    rfl
  · rename_i hk
    rw [List.getElem?_eq_none (by omega)]

theorem Memory.mem_insertCell (m : Memory) (a : Nat) (v : Byte) (c : Host.Cell) :
    c ∈ Memory.insertCell a v m ↔ c = (a, v) ∨ c ∈ m := by
  induction m with
  | nil => simp [Memory.insertCell]
  | cons d rest ih =>
    unfold Memory.insertCell
    split
    · simp
    · simp only [List.mem_cons, ih]; tauto

theorem Memory.insertCell_sorted (m : Memory) (a : Nat) (v : Byte)
    (hs : m.Pairwise (fun c d => c.1 < d.1)) (hne : ∀ c ∈ m, c.1 ≠ a) :
    (Memory.insertCell a v m).Pairwise (fun c d => c.1 < d.1) := by
  induction m with
  | nil => simp [Memory.insertCell]
  | cons c rest ih =>
    have hc : c.1 ≠ a := hne c (by simp)
    rw [List.pairwise_cons] at hs
    unfold Memory.insertCell
    split
    · rename_i hlt
      refine List.pairwise_cons.mpr ⟨?_, List.pairwise_cons.mpr hs⟩
      intro d hd
      rcases List.mem_cons.mp hd with rfl | hd
      · exact hlt
      · exact lt_trans hlt (hs.1 d hd)
    · rename_i hlt
      refine List.pairwise_cons.mpr ⟨?_, ih hs.2 (fun d hd => hne d (by simp [hd]))⟩
      intro d hd
      rcases (Memory.mem_insertCell rest a v d).mp hd with rfl | hd
      · simp; omega
      · exact hs.1 d hd

/-- A write keeps the canonical form. -/
theorem Memory.write_wf (m : Memory) (a : Nat) (v : Byte) (h : m.wf) : (m.write a v).wf := by
  unfold Memory.write
  have hs : (m.filter (fun c => c.1 != a)).Pairwise (fun c d => c.1 < d.1) := h.1.filter _
  have hf : ∀ c ∈ m.filter (fun c => c.1 != a), c.2 ≠ Memory.fill :=
    fun c hc => h.2 c (List.mem_filter.mp hc).1
  simp only
  split
  · exact ⟨hs, hf⟩
  · rename_i hv
    refine ⟨Memory.insertCell_sorted _ a v hs
      (fun c hc => by simpa using (List.mem_filter.mp hc).2), ?_⟩
    intro c hc
    rcases (Memory.mem_insertCell _ a v c).mp hc with rfl | hc
    · exact hv
    · exact hf c hc

/-- MemWrite keeps the canonical form. -/
theorem Memory.writeBytes_wf (bs : List Byte) (m : Memory) (a : Nat) (h : m.wf) : (m.writeBytes a bs).wf := by
  induction bs generalizing m a with
  | nil => exact h
  | cons b bs ih => exact ih _ _ (Memory.write_wf m a b h)

/-- A write lists no new address but the one written. -/
theorem Memory.mem_write (m : Memory) (a : Nat) (v : Byte) (c : Host.Cell) (h : c ∈ m.write a v) :
    c.1 = a ∨ c ∈ m := by
  unfold Memory.write at h
  simp only at h
  split at h
  · exact .inr (List.mem_filter.mp h).1
  · rcases (Memory.mem_insertCell _ a v c).mp h with rfl | h
    · exact .inl rfl
    · exact .inr (List.mem_filter.mp h).1

/-- MemWrite lists no new address outside the bytes written. -/
theorem Memory.mem_writeBytes (bs : List Byte) (m : Memory) (a : Nat) (c : Host.Cell) (h : c ∈ m.writeBytes a bs) :
    (a ≤ c.1 ∧ c.1 < a + bs.length) ∨ c ∈ m := by
  induction bs generalizing m a with
  | nil => exact .inr h
  | cons b bs ih =>
    rcases ih _ _ h with h | h
    · left; simp; omega
    · rcases Memory.mem_write m a b c h with h | h
      · left; simp; omega
      · exact .inr h

/-- What reset frees reads as before outside the freed region, and inside a region that is kept (R137). -/
theorem freeRegion_read (keep : List Region) (size k a n : Nat) (m : Memory) (x : Nat)
    (h : x < a ∨ a + n ≤ x ∨ keep.any (·.has x) = true) :
    (freeRegion keep size k a n m).read x = m.read x := by
  induction n generalizing k a m with
  | zero => rfl
  | succ n ih =>
    simp only [freeRegion]
    rw [ih _ _ _ (by rcases h with h | h | h <;> [left; (right; left); (right; right)] <;> omega)]
    split
    · rename_i hk
      rw [Memory.read_write]
      split
      · rename_i hx; subst hx; rcases h with h | h | h
        · omega
        · omega
        · simp [hk.2] at h
      · rfl
    · rfl

theorem freeRegion_wf (keep : List Region) (size k a n : Nat) (m : Memory) (h : m.wf) :
    (freeRegion keep size k a n m).wf := by
  induction n generalizing k a m with
  | zero => exact h
  | succ n ih =>
    refine ih _ _ _ ?_
    split
    · exact Memory.write_wf _ _ _ h
    · exact h

theorem freeRegion_inside (keep : List Region) (size k a n : Nat) (m : Memory) (h : ∀ c ∈ m, c.1 < size) :
    ∀ c ∈ freeRegion keep size k a n m, c.1 < size := by
  induction n generalizing k a m with
  | zero => exact h
  | succ n ih =>
    refine ih _ _ _ ?_
    split
    · rename_i hk
      intro c hc
      rcases Memory.mem_write _ _ _ _ hc with hc | hc
      · omega
      · exact h c hc
    · exact h

end Sys2Proof.Machine
end

