-- ==== Sys2Proof/Laws/State.lean ====
section
/-! SUPPORT. Every field after every named update of State: one lemma per field per update, each true by rfl. -/

namespace Sys2Proof.Machine

@[simp] theorem completeWith_platform (code : BitVec 4) (dver : BitVec 3) (s : State) : (completeWith code dver s).platform = s.platform := rfl
@[simp] theorem completeWith_seq (code : BitVec 4) (dver : BitVec 3) (s : State) : (completeWith code dver s).seq = .idle := rfl
@[simp] theorem completeWith_ctrl (code : BitVec 4) (dver : BitVec 3) (s : State) : (completeWith code dver s).ctrl = s.ctrl := rfl
@[simp] theorem completeWith_status (code : BitVec 4) (dver : BitVec 3) (s : State) : (completeWith code dver s).status = completeStatus code dver s.status := rfl
@[simp] theorem completeWith_srcAddr (code : BitVec 4) (dver : BitVec 3) (s : State) : (completeWith code dver s).srcAddr = s.srcAddr := rfl
@[simp] theorem completeWith_srcLen (code : BitVec 4) (dver : BitVec 3) (s : State) : (completeWith code dver s).srcLen = s.srcLen := rfl
@[simp] theorem completeWith_dstAddr (code : BitVec 4) (dver : BitVec 3) (s : State) : (completeWith code dver s).dstAddr = s.dstAddr := rfl
@[simp] theorem completeWith_dstCap (code : BitVec 4) (dver : BitVec 3) (s : State) : (completeWith code dver s).dstCap = s.dstCap := rfl
@[simp] theorem completeWith_dstLen (code : BitVec 4) (dver : BitVec 3) (s : State) : (completeWith code dver s).dstLen = s.dstLen := rfl
@[simp] theorem completeWith_ivAddr (code : BitVec 4) (dver : BitVec 3) (s : State) : (completeWith code dver s).ivAddr = s.ivAddr := rfl
@[simp] theorem completeWith_ivLen (code : BitVec 4) (dver : BitVec 3) (s : State) : (completeWith code dver s).ivLen = s.ivLen := rfl
@[simp] theorem completeWith_arg (code : BitVec 4) (dver : BitVec 3) (s : State) : (completeWith code dver s).arg = s.arg := rfl
@[simp] theorem completeWith_lcgState (code : BitVec 4) (dver : BitVec 3) (s : State) : (completeWith code dver s).lcgState = s.lcgState := rfl
@[simp] theorem completeWith_result (code : BitVec 4) (dver : BitVec 3) (s : State) : (completeWith code dver s).result = s.result := rfl
@[simp] theorem completeWith_mem (code : BitVec 4) (dver : BitVec 3) (s : State) : (completeWith code dver s).mem = s.mem := rfl
@[simp] theorem completeWith_hung (code : BitVec 4) (dver : BitVec 3) (s : State) : (completeWith code dver s).hung = s.hung := rfl
@[simp] theorem completeWith_unobserved (code : BitVec 4) (dver : BitVec 3) (s : State) : (completeWith code dver s).unobserved = s.unobserved := rfl
@[simp] theorem completeWith_host (code : BitVec 4) (dver : BitVec 3) (s : State) : (completeWith code dver s).host = s.host := rfl
@[simp] theorem completeWith_draws (code : BitVec 4) (dver : BitVec 3) (s : State) : (completeWith code dver s).draws = s.draws := rfl
@[simp] theorem completeWith_inputs (code : BitVec 4) (dver : BitVec 3) (s : State) : (completeWith code dver s).inputs = s.inputs := rfl

@[simp] theorem complete_platform (s : State) : (complete s).platform = s.platform := rfl
@[simp] theorem complete_seq (s : State) : (complete s).seq = .idle := rfl
@[simp] theorem complete_ctrl (s : State) : (complete s).ctrl = s.ctrl := rfl
@[simp] theorem complete_status (s : State) : (complete s).status = completeStatus 0 0 s.status := rfl
@[simp] theorem complete_srcAddr (s : State) : (complete s).srcAddr = s.srcAddr := rfl
@[simp] theorem complete_srcLen (s : State) : (complete s).srcLen = s.srcLen := rfl
@[simp] theorem complete_dstAddr (s : State) : (complete s).dstAddr = s.dstAddr := rfl
@[simp] theorem complete_dstCap (s : State) : (complete s).dstCap = s.dstCap := rfl
@[simp] theorem complete_dstLen (s : State) : (complete s).dstLen = s.dstLen := rfl
@[simp] theorem complete_ivAddr (s : State) : (complete s).ivAddr = s.ivAddr := rfl
@[simp] theorem complete_ivLen (s : State) : (complete s).ivLen = s.ivLen := rfl
@[simp] theorem complete_arg (s : State) : (complete s).arg = s.arg := rfl
@[simp] theorem complete_lcgState (s : State) : (complete s).lcgState = s.lcgState := rfl
@[simp] theorem complete_result (s : State) : (complete s).result = s.result := rfl
@[simp] theorem complete_mem (s : State) : (complete s).mem = s.mem := rfl
@[simp] theorem complete_hung (s : State) : (complete s).hung = s.hung := rfl
@[simp] theorem complete_unobserved (s : State) : (complete s).unobserved = s.unobserved := rfl
@[simp] theorem complete_host (s : State) : (complete s).host = s.host := rfl
@[simp] theorem complete_draws (s : State) : (complete s).draws = s.draws := rfl
@[simp] theorem complete_inputs (s : State) : (complete s).inputs = s.inputs := rfl

@[simp] theorem completeVersion_platform (v : Version) (s : State) : (completeVersion v s).platform = s.platform := rfl
@[simp] theorem completeVersion_seq (v : Version) (s : State) : (completeVersion v s).seq = .idle := rfl
@[simp] theorem completeVersion_ctrl (v : Version) (s : State) : (completeVersion v s).ctrl = s.ctrl := rfl
@[simp] theorem completeVersion_status (v : Version) (s : State) : (completeVersion v s).status = completeStatus 0 v.number s.status := rfl
@[simp] theorem completeVersion_srcAddr (v : Version) (s : State) : (completeVersion v s).srcAddr = s.srcAddr := rfl
@[simp] theorem completeVersion_srcLen (v : Version) (s : State) : (completeVersion v s).srcLen = s.srcLen := rfl
@[simp] theorem completeVersion_dstAddr (v : Version) (s : State) : (completeVersion v s).dstAddr = s.dstAddr := rfl
@[simp] theorem completeVersion_dstCap (v : Version) (s : State) : (completeVersion v s).dstCap = s.dstCap := rfl
@[simp] theorem completeVersion_dstLen (v : Version) (s : State) : (completeVersion v s).dstLen = s.dstLen := rfl
@[simp] theorem completeVersion_ivAddr (v : Version) (s : State) : (completeVersion v s).ivAddr = s.ivAddr := rfl
@[simp] theorem completeVersion_ivLen (v : Version) (s : State) : (completeVersion v s).ivLen = s.ivLen := rfl
@[simp] theorem completeVersion_arg (v : Version) (s : State) : (completeVersion v s).arg = s.arg := rfl
@[simp] theorem completeVersion_lcgState (v : Version) (s : State) : (completeVersion v s).lcgState = s.lcgState := rfl
@[simp] theorem completeVersion_result (v : Version) (s : State) : (completeVersion v s).result = s.result := rfl
@[simp] theorem completeVersion_mem (v : Version) (s : State) : (completeVersion v s).mem = s.mem := rfl
@[simp] theorem completeVersion_hung (v : Version) (s : State) : (completeVersion v s).hung = s.hung := rfl
@[simp] theorem completeVersion_unobserved (v : Version) (s : State) : (completeVersion v s).unobserved = s.unobserved := rfl
@[simp] theorem completeVersion_host (v : Version) (s : State) : (completeVersion v s).host = s.host := rfl
@[simp] theorem completeVersion_draws (v : Version) (s : State) : (completeVersion v s).draws = s.draws := rfl
@[simp] theorem completeVersion_inputs (v : Version) (s : State) : (completeVersion v s).inputs = s.inputs := rfl

@[simp] theorem abort_platform (e : ErrorCode) (s : State) : (abort e s).platform = s.platform := rfl
@[simp] theorem abort_seq (e : ErrorCode) (s : State) : (abort e s).seq = .idle := rfl
@[simp] theorem abort_ctrl (e : ErrorCode) (s : State) : (abort e s).ctrl = s.ctrl := rfl
@[simp] theorem abort_status (e : ErrorCode) (s : State) : (abort e s).status = completeStatus e.code 0 s.status := rfl
@[simp] theorem abort_srcAddr (e : ErrorCode) (s : State) : (abort e s).srcAddr = s.srcAddr := rfl
@[simp] theorem abort_srcLen (e : ErrorCode) (s : State) : (abort e s).srcLen = s.srcLen := rfl
@[simp] theorem abort_dstAddr (e : ErrorCode) (s : State) : (abort e s).dstAddr = s.dstAddr := rfl
@[simp] theorem abort_dstCap (e : ErrorCode) (s : State) : (abort e s).dstCap = s.dstCap := rfl
@[simp] theorem abort_dstLen (e : ErrorCode) (s : State) : (abort e s).dstLen = 0 := rfl
@[simp] theorem abort_ivAddr (e : ErrorCode) (s : State) : (abort e s).ivAddr = s.ivAddr := rfl
@[simp] theorem abort_ivLen (e : ErrorCode) (s : State) : (abort e s).ivLen = s.ivLen := rfl
@[simp] theorem abort_arg (e : ErrorCode) (s : State) : (abort e s).arg = s.arg := rfl
@[simp] theorem abort_lcgState (e : ErrorCode) (s : State) : (abort e s).lcgState = s.lcgState := rfl
@[simp] theorem abort_result (e : ErrorCode) (s : State) : (abort e s).result = s.result := rfl
@[simp] theorem abort_mem (e : ErrorCode) (s : State) : (abort e s).mem = s.mem := rfl
@[simp] theorem abort_hung (e : ErrorCode) (s : State) : (abort e s).hung = s.hung := rfl
@[simp] theorem abort_unobserved (e : ErrorCode) (s : State) : (abort e s).unobserved = s.unobserved := rfl
@[simp] theorem abort_host (e : ErrorCode) (s : State) : (abort e s).host = s.host := rfl
@[simp] theorem abort_draws (e : ErrorCode) (s : State) : (abort e s).draws = s.draws := rfl
@[simp] theorem abort_inputs (e : ErrorCode) (s : State) : (abort e s).inputs = s.inputs := rfl

@[simp] theorem completeIllegal_platform (s : State) : (completeIllegal s).platform = s.platform := rfl
@[simp] theorem completeIllegal_seq (s : State) : (completeIllegal s).seq = .idle := rfl
@[simp] theorem completeIllegal_ctrl (s : State) : (completeIllegal s).ctrl = s.ctrl := rfl
@[simp] theorem completeIllegal_status (s : State) : (completeIllegal s).status = completeStatus 6 0 s.status := rfl
@[simp] theorem completeIllegal_srcAddr (s : State) : (completeIllegal s).srcAddr = s.srcAddr := rfl
@[simp] theorem completeIllegal_srcLen (s : State) : (completeIllegal s).srcLen = s.srcLen := rfl
@[simp] theorem completeIllegal_dstAddr (s : State) : (completeIllegal s).dstAddr = s.dstAddr := rfl
@[simp] theorem completeIllegal_dstCap (s : State) : (completeIllegal s).dstCap = s.dstCap := rfl
@[simp] theorem completeIllegal_dstLen (s : State) : (completeIllegal s).dstLen = s.dstLen := rfl
@[simp] theorem completeIllegal_ivAddr (s : State) : (completeIllegal s).ivAddr = s.ivAddr := rfl
@[simp] theorem completeIllegal_ivLen (s : State) : (completeIllegal s).ivLen = s.ivLen := rfl
@[simp] theorem completeIllegal_arg (s : State) : (completeIllegal s).arg = s.arg := rfl
@[simp] theorem completeIllegal_lcgState (s : State) : (completeIllegal s).lcgState = s.lcgState := rfl
@[simp] theorem completeIllegal_result (s : State) : (completeIllegal s).result = s.result := rfl
@[simp] theorem completeIllegal_mem (s : State) : (completeIllegal s).mem = s.mem := rfl
@[simp] theorem completeIllegal_hung (s : State) : (completeIllegal s).hung = s.hung := rfl
@[simp] theorem completeIllegal_unobserved (s : State) : (completeIllegal s).unobserved = s.unobserved := rfl
@[simp] theorem completeIllegal_host (s : State) : (completeIllegal s).host = s.host := rfl
@[simp] theorem completeIllegal_draws (s : State) : (completeIllegal s).draws = s.draws := rfl
@[simp] theorem completeIllegal_inputs (s : State) : (completeIllegal s).inputs = s.inputs := rfl

@[simp] theorem storeOutput_platform (out : List Byte) (len : Nat) (s : State) : (storeOutput out len s).platform = s.platform := rfl
@[simp] theorem storeOutput_seq (out : List Byte) (len : Nat) (s : State) : (storeOutput out len s).seq = s.seq := rfl
@[simp] theorem storeOutput_ctrl (out : List Byte) (len : Nat) (s : State) : (storeOutput out len s).ctrl = s.ctrl := rfl
@[simp] theorem storeOutput_status (out : List Byte) (len : Nat) (s : State) : (storeOutput out len s).status = s.status := rfl
@[simp] theorem storeOutput_srcAddr (out : List Byte) (len : Nat) (s : State) : (storeOutput out len s).srcAddr = s.srcAddr := rfl
@[simp] theorem storeOutput_srcLen (out : List Byte) (len : Nat) (s : State) : (storeOutput out len s).srcLen = s.srcLen := rfl
@[simp] theorem storeOutput_dstAddr (out : List Byte) (len : Nat) (s : State) : (storeOutput out len s).dstAddr = s.dstAddr := rfl
@[simp] theorem storeOutput_dstCap (out : List Byte) (len : Nat) (s : State) : (storeOutput out len s).dstCap = s.dstCap := rfl
@[simp] theorem storeOutput_dstLen (out : List Byte) (len : Nat) (s : State) : (storeOutput out len s).dstLen = BitVec.ofNat 32 len := rfl
@[simp] theorem storeOutput_ivAddr (out : List Byte) (len : Nat) (s : State) : (storeOutput out len s).ivAddr = s.ivAddr := rfl
@[simp] theorem storeOutput_ivLen (out : List Byte) (len : Nat) (s : State) : (storeOutput out len s).ivLen = s.ivLen := rfl
@[simp] theorem storeOutput_arg (out : List Byte) (len : Nat) (s : State) : (storeOutput out len s).arg = s.arg := rfl
@[simp] theorem storeOutput_lcgState (out : List Byte) (len : Nat) (s : State) : (storeOutput out len s).lcgState = s.lcgState := rfl
@[simp] theorem storeOutput_result (out : List Byte) (len : Nat) (s : State) : (storeOutput out len s).result = s.result := rfl
@[simp] theorem storeOutput_mem (out : List Byte) (len : Nat) (s : State) : (storeOutput out len s).mem = s.mem.writeBytes s.dstAddr.toNat out := rfl
@[simp] theorem storeOutput_hung (out : List Byte) (len : Nat) (s : State) : (storeOutput out len s).hung = s.hung := rfl
@[simp] theorem storeOutput_unobserved (out : List Byte) (len : Nat) (s : State) : (storeOutput out len s).unobserved = s.unobserved := rfl
@[simp] theorem storeOutput_host (out : List Byte) (len : Nat) (s : State) : (storeOutput out len s).host = s.host := rfl
@[simp] theorem storeOutput_draws (out : List Byte) (len : Nat) (s : State) : (storeOutput out len s).draws = s.draws := rfl
@[simp] theorem storeOutput_inputs (out : List Byte) (len : Nat) (s : State) : (storeOutput out len s).inputs = s.inputs := rfl

@[simp] theorem takeDraws_platform (n : Nat) (s : State) : (takeDraws n s).platform = s.platform := rfl
@[simp] theorem takeDraws_seq (n : Nat) (s : State) : (takeDraws n s).seq = s.seq := rfl
@[simp] theorem takeDraws_ctrl (n : Nat) (s : State) : (takeDraws n s).ctrl = s.ctrl := rfl
@[simp] theorem takeDraws_status (n : Nat) (s : State) : (takeDraws n s).status = s.status := rfl
@[simp] theorem takeDraws_srcAddr (n : Nat) (s : State) : (takeDraws n s).srcAddr = s.srcAddr := rfl
@[simp] theorem takeDraws_srcLen (n : Nat) (s : State) : (takeDraws n s).srcLen = s.srcLen := rfl
@[simp] theorem takeDraws_dstAddr (n : Nat) (s : State) : (takeDraws n s).dstAddr = s.dstAddr := rfl
@[simp] theorem takeDraws_dstCap (n : Nat) (s : State) : (takeDraws n s).dstCap = s.dstCap := rfl
@[simp] theorem takeDraws_dstLen (n : Nat) (s : State) : (takeDraws n s).dstLen = s.dstLen := rfl
@[simp] theorem takeDraws_ivAddr (n : Nat) (s : State) : (takeDraws n s).ivAddr = s.ivAddr := rfl
@[simp] theorem takeDraws_ivLen (n : Nat) (s : State) : (takeDraws n s).ivLen = s.ivLen := rfl
@[simp] theorem takeDraws_arg (n : Nat) (s : State) : (takeDraws n s).arg = s.arg := rfl
@[simp] theorem takeDraws_lcgState (n : Nat) (s : State) : (takeDraws n s).lcgState = s.lcgState := rfl
@[simp] theorem takeDraws_result (n : Nat) (s : State) : (takeDraws n s).result = s.result := rfl
@[simp] theorem takeDraws_mem (n : Nat) (s : State) : (takeDraws n s).mem = s.mem := rfl
@[simp] theorem takeDraws_hung (n : Nat) (s : State) : (takeDraws n s).hung = s.hung := rfl
@[simp] theorem takeDraws_unobserved (n : Nat) (s : State) : (takeDraws n s).unobserved = s.unobserved := rfl
@[simp] theorem takeDraws_host (n : Nat) (s : State) : (takeDraws n s).host = s.host := rfl
@[simp] theorem takeDraws_draws (n : Nat) (s : State) : (takeDraws n s).draws = s.draws + n := rfl
@[simp] theorem takeDraws_inputs (n : Nat) (s : State) : (takeDraws n s).inputs = s.inputs := rfl

@[simp] theorem observe_platform (s : State) : (observe s).platform = s.platform := rfl
@[simp] theorem observe_seq (s : State) : (observe s).seq = s.seq := rfl
@[simp] theorem observe_ctrl (s : State) : (observe s).ctrl = s.ctrl := rfl
@[simp] theorem observe_status (s : State) : (observe s).status = s.status := rfl
@[simp] theorem observe_srcAddr (s : State) : (observe s).srcAddr = s.srcAddr := rfl
@[simp] theorem observe_srcLen (s : State) : (observe s).srcLen = s.srcLen := rfl
@[simp] theorem observe_dstAddr (s : State) : (observe s).dstAddr = s.dstAddr := rfl
@[simp] theorem observe_dstCap (s : State) : (observe s).dstCap = s.dstCap := rfl
@[simp] theorem observe_dstLen (s : State) : (observe s).dstLen = s.dstLen := rfl
@[simp] theorem observe_ivAddr (s : State) : (observe s).ivAddr = s.ivAddr := rfl
@[simp] theorem observe_ivLen (s : State) : (observe s).ivLen = s.ivLen := rfl
@[simp] theorem observe_arg (s : State) : (observe s).arg = s.arg := rfl
@[simp] theorem observe_lcgState (s : State) : (observe s).lcgState = s.lcgState := rfl
@[simp] theorem observe_result (s : State) : (observe s).result = s.result := rfl
@[simp] theorem observe_mem (s : State) : (observe s).mem = s.mem := rfl
@[simp] theorem observe_hung (s : State) : (observe s).hung = s.hung := rfl
@[simp] theorem observe_unobserved (s : State) : (observe s).unobserved = [] := rfl
@[simp] theorem observe_host (s : State) : (observe s).host = s.host := rfl
@[simp] theorem observe_draws (s : State) : (observe s).draws = s.draws := rfl
@[simp] theorem observe_inputs (s : State) : (observe s).inputs = s.inputs := rfl

@[simp] theorem accept_platform (w : Word) (s : State) : (accept w s).platform = s.platform := rfl
@[simp] theorem accept_seq (w : Word) (s : State) : (accept w s).seq = .busy w := rfl
@[simp] theorem accept_ctrl (w : Word) (s : State) : (accept w s).ctrl = s.ctrl := rfl
@[simp] theorem accept_status (w : Word) (s : State) : (accept w s).status = acceptStatus s.status := rfl
@[simp] theorem accept_srcAddr (w : Word) (s : State) : (accept w s).srcAddr = s.srcAddr := rfl
@[simp] theorem accept_srcLen (w : Word) (s : State) : (accept w s).srcLen = s.srcLen := rfl
@[simp] theorem accept_dstAddr (w : Word) (s : State) : (accept w s).dstAddr = s.dstAddr := rfl
@[simp] theorem accept_dstCap (w : Word) (s : State) : (accept w s).dstCap = s.dstCap := rfl
@[simp] theorem accept_dstLen (w : Word) (s : State) : (accept w s).dstLen = s.dstLen := rfl
@[simp] theorem accept_ivAddr (w : Word) (s : State) : (accept w s).ivAddr = s.ivAddr := rfl
@[simp] theorem accept_ivLen (w : Word) (s : State) : (accept w s).ivLen = s.ivLen := rfl
@[simp] theorem accept_arg (w : Word) (s : State) : (accept w s).arg = s.arg := rfl
@[simp] theorem accept_lcgState (w : Word) (s : State) : (accept w s).lcgState = s.lcgState := rfl
@[simp] theorem accept_result (w : Word) (s : State) : (accept w s).result = s.result := rfl
@[simp] theorem accept_mem (w : Word) (s : State) : (accept w s).mem = s.mem := rfl
@[simp] theorem accept_hung (w : Word) (s : State) : (accept w s).hung = s.hung := rfl
@[simp] theorem accept_unobserved (w : Word) (s : State) : (accept w s).unobserved = wordRegions w s :: s.unobserved := rfl
@[simp] theorem accept_host (w : Word) (s : State) : (accept w s).host = s.host := rfl
@[simp] theorem accept_draws (w : Word) (s : State) : (accept w s).draws = s.draws := rfl
@[simp] theorem accept_inputs (w : Word) (s : State) : (accept w s).inputs = s.inputs := rfl

@[simp] theorem latchWord_platform (w : Word) (s : State) : (latchWord w s).platform = s.platform := rfl
@[simp] theorem latchWord_seq (w : Word) (s : State) : (latchWord w s).seq = .busy w := rfl
@[simp] theorem latchWord_ctrl (w : Word) (s : State) : (latchWord w s).ctrl = s.ctrl := rfl
@[simp] theorem latchWord_status (w : Word) (s : State) : (latchWord w s).status = s.status := rfl
@[simp] theorem latchWord_srcAddr (w : Word) (s : State) : (latchWord w s).srcAddr = s.srcAddr := rfl
@[simp] theorem latchWord_srcLen (w : Word) (s : State) : (latchWord w s).srcLen = s.srcLen := rfl
@[simp] theorem latchWord_dstAddr (w : Word) (s : State) : (latchWord w s).dstAddr = s.dstAddr := rfl
@[simp] theorem latchWord_dstCap (w : Word) (s : State) : (latchWord w s).dstCap = s.dstCap := rfl
@[simp] theorem latchWord_dstLen (w : Word) (s : State) : (latchWord w s).dstLen = s.dstLen := rfl
@[simp] theorem latchWord_ivAddr (w : Word) (s : State) : (latchWord w s).ivAddr = s.ivAddr := rfl
@[simp] theorem latchWord_ivLen (w : Word) (s : State) : (latchWord w s).ivLen = s.ivLen := rfl
@[simp] theorem latchWord_arg (w : Word) (s : State) : (latchWord w s).arg = s.arg := rfl
@[simp] theorem latchWord_lcgState (w : Word) (s : State) : (latchWord w s).lcgState = s.lcgState := rfl
@[simp] theorem latchWord_result (w : Word) (s : State) : (latchWord w s).result = s.result := rfl
@[simp] theorem latchWord_mem (w : Word) (s : State) : (latchWord w s).mem = s.mem := rfl
@[simp] theorem latchWord_hung (w : Word) (s : State) : (latchWord w s).hung = s.hung := rfl
@[simp] theorem latchWord_unobserved (w : Word) (s : State) : (latchWord w s).unobserved = s.unobserved := rfl
@[simp] theorem latchWord_host (w : Word) (s : State) : (latchWord w s).host = s.host := rfl
@[simp] theorem latchWord_draws (w : Word) (s : State) : (latchWord w s).draws = s.draws := rfl
@[simp] theorem latchWord_inputs (w : Word) (s : State) : (latchWord w s).inputs = engineFirst s.inputs := rfl

@[simp] theorem resetEngine_platform (s : State) : (resetEngine s).platform = s.platform := rfl
@[simp] theorem resetEngine_seq (s : State) : (resetEngine s).seq = State.reset.seq := rfl
@[simp] theorem resetEngine_ctrl (s : State) : (resetEngine s).ctrl = State.reset.ctrl := rfl
@[simp] theorem resetEngine_status (s : State) : (resetEngine s).status = State.reset.status := rfl
@[simp] theorem resetEngine_srcAddr (s : State) : (resetEngine s).srcAddr = State.reset.srcAddr := rfl
@[simp] theorem resetEngine_srcLen (s : State) : (resetEngine s).srcLen = State.reset.srcLen := rfl
@[simp] theorem resetEngine_dstAddr (s : State) : (resetEngine s).dstAddr = State.reset.dstAddr := rfl
@[simp] theorem resetEngine_dstCap (s : State) : (resetEngine s).dstCap = State.reset.dstCap := rfl
@[simp] theorem resetEngine_dstLen (s : State) : (resetEngine s).dstLen = State.reset.dstLen := rfl
@[simp] theorem resetEngine_ivAddr (s : State) : (resetEngine s).ivAddr = State.reset.ivAddr := rfl
@[simp] theorem resetEngine_ivLen (s : State) : (resetEngine s).ivLen = State.reset.ivLen := rfl
@[simp] theorem resetEngine_arg (s : State) : (resetEngine s).arg = State.reset.arg := rfl
@[simp] theorem resetEngine_lcgState (s : State) : (resetEngine s).lcgState = State.reset.lcgState := rfl
@[simp] theorem resetEngine_result (s : State) : (resetEngine s).result = State.reset.result := rfl
@[simp] theorem resetEngine_mem (s : State) : (resetEngine s).mem = memAfterReset s := rfl
@[simp] theorem resetEngine_hung (s : State) : (resetEngine s).hung = State.reset.hung := rfl
@[simp] theorem resetEngine_unobserved (s : State) : (resetEngine s).unobserved = State.reset.unobserved := rfl
@[simp] theorem resetEngine_host (s : State) : (resetEngine s).host = s.host := rfl
@[simp] theorem resetEngine_draws (s : State) : (resetEngine s).draws = s.draws + resetDraws s := rfl
@[simp] theorem resetEngine_inputs (s : State) : (resetEngine s).inputs = s.inputs := rfl

@[simp] theorem completeStatus_done (c : BitVec 4) (d : BitVec 3) (st : Status) : (completeStatus c d st).done = true := rfl
@[simp] theorem completeStatus_err (c : BitVec 4) (d : BitVec 3) (st : Status) : (completeStatus c d st).err = (c != 0) := rfl
@[simp] theorem completeStatus_ovr (c : BitVec 4) (d : BitVec 3) (st : Status) : (completeStatus c d st).ovr = st.ovr := rfl
@[simp] theorem completeStatus_ecode (c : BitVec 4) (d : BitVec 3) (st : Status) : (completeStatus c d st).ecode = c := rfl
@[simp] theorem completeStatus_dver (c : BitVec 4) (d : BitVec 3) (st : Status) : (completeStatus c d st).dver = d := rfl
@[simp] theorem acceptStatus_done (st : Status) : (acceptStatus st).done = false := rfl
@[simp] theorem acceptStatus_err (st : Status) : (acceptStatus st).err = false := rfl
@[simp] theorem acceptStatus_ovr (st : Status) : (acceptStatus st).ovr = st.ovr := rfl
@[simp] theorem acceptStatus_ecode (st : Status) : (acceptStatus st).ecode = 0 := rfl
@[simp] theorem acceptStatus_dver (st : Status) : (acceptStatus st).dver = 0 := rfl
@[simp] theorem clearStatus_done (v : Word) (st : Status) : (clearStatus v st).done = (st.done && !v.getLsbD 1) := rfl
@[simp] theorem clearStatus_err (v : Word) (st : Status) : (clearStatus v st).err = st.err := rfl
@[simp] theorem clearStatus_ovr (v : Word) (st : Status) : (clearStatus v st).ovr = (st.ovr && !v.getLsbD 3) := rfl
@[simp] theorem clearStatus_ecode (v : Word) (st : Status) : (clearStatus v st).ecode = st.ecode := rfl
@[simp] theorem clearStatus_dver (v : Word) (st : Status) : (clearStatus v st).dver = st.dver := rfl
@[simp] theorem isBusy_idle : Sequencer.isBusy .idle = false := rfl
@[simp] theorem isBusy_busy (w : Word) : Sequencer.isBusy (.busy w) = true := rfl

end Sys2Proof.Machine
end

