-- ==== Sys2Proof/Laws/Exec.lean ====
section
/-! SUPPORT. What each shared operation and each command can answer, said once: later proofs cite these and do not unfold the
meanings. -/

namespace Sys2Proof.Machine

/-- The region checks of R42, in arithmetic. -/
theorem regionsOk_iff (s : State) (reads : List Region) (dst : Region) :
    regionsOk s reads dst = true ↔
      dst.len ≤ s.dstCap.toNat ∧ dst.base + dst.len ≤ s.platform.memSize ∧
        (∀ r ∈ reads, r.base + r.len ≤ s.platform.memSize) ∧
        ∀ r ∈ reads, dst.overlaps r = false := by
  simp [regionsOk, Region.inBounds, and_assoc]

/-- Overlap in arithmetic (R42). -/
theorem overlaps_iff (r t : Region) :
    r.overlaps t = true ↔ 0 < r.len ∧ 0 < t.len ∧ r.base < t.base + t.len ∧ t.base < r.base + r.len := by
  simp [Region.overlaps, and_assoc]

theorem has_iff (r : Region) (a : Nat) : r.has a = true ↔ r.base ≤ a ∧ a < r.base + r.len := by
  simp [Region.has]

/-- Regions that do not overlap share no address (R42). -/
theorem has_of_not_overlaps (r t : Region) (a : Nat) (h : r.overlaps t = false) (ht : t.has a = true) :
    r.has a = false := by
  by_contra hr
  have hr' := (has_iff r a).mp (by simpa using hr)
  have ht' := (has_iff t a).mp ht
  have := (overlaps_iff r t).mpr (by omega)
  simp [this] at h

@[simp] theorem encHeader_fst_length (ivs : Bool) (n : Nat) (s : State) : (encHeader ivs n s).1.length = n := by
  cases ivs <;> simp [encHeader]

/-- The header taken leaves everything but the draw counter (R104). -/
theorem encHeader_snd (ivs : Bool) (n : Nat) (s : State) :
    (encHeader ivs n s).2 = if ivs then s else takeDraws n s := by
  cases ivs <;> rfl

/-- What LCG_BLOCK can answer (R76). -/
theorem execLcgBlock_cases (s : State) :
    (regionsOk s [] (dstRegion s 256) = true ∧
      execLcgBlock s =
        .next (complete (storeOutput (lcgBlock s.lcgState).1 256 { s with lcgState := (lcgBlock s.lcgState).2 }))) ∨
    (regionsOk s [] (dstRegion s 256) = false ∧ execLcgBlock s = .next (abort .regionFault s)) := by
  unfold execLcgBlock
  cases h : regionsOk s [] (dstRegion s 256) <;> simp

/-- What ROT_BLOCK can answer (R77). -/
theorem execRotBlock_cases (s : State) :
    (s.ivLen.toNat = 32 ∧ regionsOk s [ivRegion s] (dstRegion s 256) = true ∧
      execRotBlock s = .next (complete (storeOutput (rotBlock (s.mem.readBytes s.ivAddr.toNat 32)) 256 s))) ∨
    (s.ivLen.toNat = 32 ∧ regionsOk s [ivRegion s] (dstRegion s 256) = false ∧
      execRotBlock s = .next (abort .regionFault s)) ∨
    (s.ivLen.toNat ≠ 32 ∧ execRotBlock s = .next (abort .invalidIv s)) := by
  unfold execRotBlock
  by_cases hl : s.ivLen.toNat = 32
  · cases h : regionsOk s [ivRegion s] (dstRegion s 256) <;> simp [hl]
  · simp [hl]

/-- The header taken changes the draw counter alone (R104). -/
theorem encHeader_draws (ivs : Bool) (n : Nat) (s : State) :
    (encHeader ivs n s).2 = { s with draws := if ivs then s.draws else s.draws + n } := by
  cases ivs <;> rfl

/-- What the length of a payload says once DEC's checks pass (R109, R110). -/
theorem decFamily_ok (s : State) (fam : Family) (h : decFamily s = .ok fam) :
    fam.headerLen + 256 + fam.trailerLen ≤ s.srcLen.toNat ∧
      s.srcLen.toNat % 256 = fam.headerLen + fam.trailerLen ∧ Family.ofLength s.srcLen.toNat = some fam := by
  unfold decFamily at h
  cases hf : Family.ofLength s.srcLen.toNat with
  | none => simp [hf] at h
  | some f =>
    simp only [hf] at h
    split at h
    · cases h
    · injection h with h
      subst h
      refine ⟨by omega, ?_, rfl⟩
      unfold Family.ofLength at hf
      split at hf
      · injection hf with hf; subst hf; simpa
      split at hf
      · injection hf with hf; subst hf; simpa
      split at hf
      · injection hf with hf; subst hf; simpa
      cases hf

/-- A payload that decodes gives `bodyLen` bytes (R111). -/
theorem decodePayload_length (c : Config.Collaborators) (gen : Bool) (s : State) (fam : Family)
    (h : decFamily s = .ok fam) (p out : List Byte) (hp : p.length = s.srcLen.toNat)
    (hd : decodePayload c gen (fam.version p) p = .ok out) : out.length = bodyLen fam s := by
  obtain ⟨h1, h2, -⟩ := decFamily_ok s fam h
  cases fam with
  | v1 =>
    injection hd with hd
    subst hd
    simp only [Family.headerLen, Family.trailerLen] at h1 h2
    rw [chainDec_length _ 256 c.rotInv_length] <;>
      simp [slice_length, bodyLen, Family.headerLen, Family.trailerLen] <;> omega
  | v2 =>
    injection hd with hd
    subst hd
    simp only [Family.headerLen, Family.trailerLen] at h1 h2
    rw [chainDec_length _ 256 c.rotInv_length] <;>
      simp [slice_length, bodyLen, Family.headerLen, Family.trailerLen] <;> omega
  | tagged =>
    simp only [Family.headerLen, Family.trailerLen] at h1 h2
    have hb : bodyLen .tagged s = p.length - 5 := by simp [bodyLen, Family.headerLen, Family.trailerLen]; omega
    rw [hb]
    simp only [Family.version] at hd
    split at hd
    · injection hd with hd
      subst hd
      rw [decode5, decode4_length] <;> simp [c.obf_length, slice_length] <;> omega
    · split at hd
      · injection hd with hd
        subst hd
        rw [decode4_length] <;> omega
      · simp only [decodePayload, decode3] at hd
        split at hd
        · injection hd with hd
          subst hd
          rw [chainDec_length _ 256 c.rotInv_length] <;> simp only [slice_length, lcgBlock_length] <;> omega
        · cases hd

/-- What ENC can answer, over any collaborators (R103, R82). -/
theorem encWith_cases (c : Config.Collaborators) (ver : Nat) (ivs useB : Bool) (s : State) :
    (∃ e, encVersion ver ivs s = .error e ∧ encWith c ver ivs useB s = .next (abort e s)) ∨
    ∃ v, encVersion ver ivs s = .ok v ∧
      ((regionsOk s (encReads ivs s) (dstRegion s (v.payloadLen s.srcLen.toNat)) = false ∧
          encWith c ver ivs useB s = .next (abort .regionFault s)) ∨
        (regionsOk s (encReads ivs s) (dstRegion s (v.payloadLen s.srcLen.toNat)) = true ∧
          ((s.hung.blocks v.encodeCalls = true ∧ encWith c ver ivs useB s = .next s) ∨
            (s.hung.blocks v.encodeCalls = false ∧
              encWith c ver ivs useB s =
                .next (completeVersion v
                  (storeOutput
                    (encodePayload c s.platform.v2Trailer v (s.mem.readBytes s.srcAddr.toNat s.srcLen.toNat)
                      (encHeader ivs v.headerLen s).1 useB s.ctrl.tagGen)
                    (v.payloadLen s.srcLen.toNat) (encHeader ivs v.headerLen s).2)))))) := by
  unfold encWith
  cases hv : encVersion ver ivs s with
  | error e => simp
  | ok v =>
    right
    refine ⟨v, rfl, ?_⟩
    cases hr : regionsOk s (encReads ivs s) (dstRegion s (v.payloadLen s.srcLen.toNat)) <;>
      cases hh : s.hung.blocks v.encodeCalls <;> simp [hr, hh]

/-- What DEC can answer, over any collaborators (R111, R82). -/
theorem decWith_cases (c : Config.Collaborators) (s : State) :
    (∃ e, decFamily s = .error e ∧ decWith c s = .next (abort e s)) ∨
    ∃ fam, decFamily s = .ok fam ∧
      ((regionsOk s [srcRegion s] (dstRegion s (bodyLen fam s)) = false ∧
          decWith c s = .next (abort .regionFault s)) ∨
        (regionsOk s [srcRegion s] (dstRegion s (bodyLen fam s)) = true ∧
          ((∃ e, decodePayload c s.ctrl.tagGen (fam.version (s.mem.readBytes s.srcAddr.toNat s.srcLen.toNat))
                (s.mem.readBytes s.srcAddr.toNat s.srcLen.toNat) = .error e ∧ decWith c s = .next (abort e s)) ∨
            ∃ out, decodePayload c s.ctrl.tagGen (fam.version (s.mem.readBytes s.srcAddr.toNat s.srcLen.toNat))
                (s.mem.readBytes s.srcAddr.toNat s.srcLen.toNat) = .ok out ∧
              ((s.hung.blocks (fam.version (s.mem.readBytes s.srcAddr.toNat s.srcLen.toNat)).decodeCalls = true ∧
                  decWith c s = .next s) ∨
                (s.hung.blocks (fam.version (s.mem.readBytes s.srcAddr.toNat s.srcLen.toNat)).decodeCalls = false ∧
                  decWith c s =
                    .next (completeVersion (fam.version (s.mem.readBytes s.srcAddr.toNat s.srcLen.toNat))
                      (storeOutput out (bodyLen fam s - (padByte out).toNat) s))))))) := by
  unfold decWith
  cases hf : decFamily s with
  | error e => simp
  | ok fam =>
    right
    refine ⟨fam, rfl, ?_⟩
    cases hr : regionsOk s [srcRegion s] (dstRegion s (bodyLen fam s)) with
    | false => simp [hr]
    | true =>
      cases hd : decodePayload c s.ctrl.tagGen (fam.version (s.mem.readBytes s.srcAddr.toNat s.srcLen.toNat))
          (s.mem.readBytes s.srcAddr.toNat s.srcLen.toNat) with
      | error e => simp [hr, hd]
      | ok out =>
        cases hh : s.hung.blocks (fam.version (s.mem.readBytes s.srcAddr.toNat s.srcLen.toNat)).decodeCalls <;>
          simp [hr, hd, hh]

/-- No command ends in a fault or a refusal (R121, R125). -/
theorem exec_answers_next (i : Instr) (s : State) : ∃ t, exec i s = .next t := by
  cases i with
  | nop => exact ⟨_, rfl⟩
  | lcgSeed => exact ⟨_, rfl⟩
  | lcgNext => exact ⟨_, rfl⟩
  | lcgTag b => exact ⟨_, rfl⟩
  | lcgBlock => rcases execLcgBlock_cases s with ⟨_, h⟩ | ⟨_, h⟩ <;> exact ⟨_, h⟩
  | rotBlock => rcases execRotBlock_cases s with ⟨_, _, h⟩ | ⟨_, _, h⟩ | ⟨_, h⟩ <;> exact ⟨_, h⟩
  | enc ver ivs useB =>
    rcases encWith_cases Config.collaborators ver ivs useB s with
      ⟨_, _, h⟩ | ⟨_, _, ⟨_, h⟩ | ⟨_, ⟨_, h⟩ | ⟨_, h⟩⟩⟩ <;> exact ⟨_, h⟩
  | dec =>
    rcases decWith_cases Config.collaborators s with
      ⟨_, _, h⟩ | ⟨_, _, ⟨_, h⟩ | ⟨_, ⟨_, _, h⟩ | ⟨_, _, ⟨_, h⟩ | ⟨_, h⟩⟩⟩⟩ <;> exact ⟨_, h⟩

/-- What the engine's turn can answer (R16, R60, R128). -/
theorem engineTurn_cases (s : State) :
    (s.seq = .idle ∧ engineTurn s = .next s) ∨
    (∃ w i, s.seq = .busy w ∧ decode w = .ok i ∧ engineTurn s = exec i s) ∨
    (∃ w e, s.seq = .busy w ∧ decode w = .error e ∧ engineTurn s = .next (completeIllegal s)) := by
  unfold engineTurn
  cases hs : s.seq with
  | idle => simp
  | busy w => cases hd : decode w <;> simp [hd]

/-- A step is the engine's turn or one input's move. -/
theorem step_cases (s : State) :
    (s.inputs = [] ∧ step s = engineTurn s) ∨
    ∃ i rest, s.inputs = i :: rest ∧ step s = move i { s with inputs := rest } := by
  unfold step nextMove
  cases hi : s.inputs with
  | nil => simp
  | cons i rest => exact .inr ⟨i, rest, rfl, rfl⟩

/-- The steps after a first one that answers a next state. -/
theorem steps_succ (n : Nat) (s t : State) (h : step s = .next t) : steps (n + 1) s = steps n t := by
  simp only [steps, h]

/-- A step that answers a next state, as a run of one. -/
theorem steps_one (s t : State) (h : step s = .next t) : steps 1 s = .next t := by
  simp only [steps, h]

theorem run_next (M : Host.Core) (n : Nat) (s t : M.State) (h : M.step s = .next t) : M.run (n + 1) s = M.run n t := by
  simp only [Host.Core.run, h]

theorem run_fault (M : Host.Core) (n : Nat) (s : M.State) (r : M.Fault) (h : M.step s = .fault r) :
    M.run (n + 1) s = .fault r := by
  simp only [Host.Core.run, h]

theorem run_refused (M : Host.Core) (n : Nat) (s : M.State) (r : M.Refusal) (h : M.step s = .refused r) :
    M.run (n + 1) s = .refused r := by
  simp only [Host.Core.run, h]

/-- The steps of the machine are the host interface's run of it. -/
theorem steps_eq_run (n : Nat) (s : State) : steps n s = Host.Core.run Sys2Proof.core n s := by
  induction n generalizing s with
  | zero => rfl
  | succ n ih =>
    unfold steps
    cases h : step s with
    | next t => exact (ih t).trans (run_next Sys2Proof.core n s t h).symm
    | fault r => exact (run_fault Sys2Proof.core n s r h).symm
    | refused r => exact (run_refused Sys2Proof.core n s r h).symm

/-- When the engine moves next, the step is its turn on the state with that move taken. -/
theorem step_of_engineNext (s : State) (rest : List Input) (h : s.engineNext rest) :
    step s = engineTurn { s with inputs := rest } := by
  rcases h with h | ⟨h, rfl⟩
  · simp [step, nextMove, h, move]
  · have : { s with inputs := [] } = s := by cases s; simp_all
    rw [this]; simp [step, nextMove, h]

/-- The engine moves next where the moves put its turn first (log 2). -/
theorem engineNext_engineFirst (s : State) : State.engineNext { s with inputs := engineFirst s.inputs } s.inputs := by
  unfold State.engineNext engineFirst
  cases s.inputs <;> simp

/-- A CSR access of the engine is an aligned 32-bit access at CSR_BASE plus the offset (R20). -/
theorem csrOffset_base (base : Word) (off : Nat) (h : off < 256) (ha : off % 4 = 0) :
    csrOffset base (base + BitVec.ofNat 32 off) 4 = .ok off := by
  have hb : (base + BitVec.ofNat 32 off - base).toNat = off := by
    rw [BitVec.add_comm, BitVec.add_sub_cancel]; simp; omega
  unfold csrOffset
  simp only [hb]
  split
  · omega
  · simp [ha]

/-- Every other access form inside the window is refused (R20, U9). -/
theorem csrOffset_refuses (base : Word) (off size : Nat) (h : off < 256) (hf : size ≠ 4 ∨ off % 4 ≠ 0) :
    csrOffset base (base + BitVec.ofNat 32 off) size = .error .csrAccessForm := by
  have hb : (base + BitVec.ofNat 32 off - base).toNat = off := by
    rw [BitVec.add_comm, BitVec.add_sub_cancel]; simp; omega
  unfold csrOffset
  simp only [hb]
  rw [if_neg (by omega), if_pos hf]

/-- The step of a host write to a CSR (R20). -/
theorem step_csrWrite (s : State) (off : Nat) (v : Word) (rest : List Input) (h : off < 256) (ha : off % 4 = 0)
    (hi : s.inputs = .csrWrite (s.platform.csrBase + BitVec.ofNat 32 off) 4 v :: rest) :
    step s = .next (writeOffset off v { s with inputs := rest }) := by
  unfold step nextMove
  rw [hi]
  simp only [move, hostCsrWrite, csrOffset_base _ off h ha]

/-- The step of a host read of a CSR (R20, R141). -/
theorem step_csrRead (s : State) (off : Nat) (rest : List Input) (h : off < 256) (ha : off % 4 = 0)
    (hi : s.inputs = .csrRead (s.platform.csrBase + BitVec.ofNat 32 off) 4 :: rest) :
    step s = .next (observeIf (seesDone off s)
      { s with inputs := rest, host := { s.host with csrData := csrReadValue s off } }) := by
  unfold step nextMove
  rw [hi]
  simp only [move, hostCsrRead, csrOffset_base _ off h ha]
  rfl

/-- The active regions of a word do not depend on the moves to come. -/
@[simp] theorem wordRegions_inputs (w : Word) (s : State) (rest : List Input) :
    wordRegions w { s with inputs := rest } = wordRegions w s := by
  unfold wordRegions
  cases decode w with
  | error e => rfl
  | ok i => cases i <;> rfl

/-- What a memory write by the host can answer (R40, R50). -/
theorem hostMemWrite_cases (a : Nat) (bs : List Byte) (s : State) :
    (a + bs.length ≤ s.platform.memSize ∧ touchesActive ⟨a, bs.length⟩ s = false ∧
      hostMemWrite a bs s = .next { s with mem := s.mem.writeBytes a bs }) ∨
    (a + bs.length ≤ s.platform.memSize ∧ touchesActive ⟨a, bs.length⟩ s = true ∧
      hostMemWrite a bs s = .fault .hostRace) ∨
    (s.platform.memSize < a + bs.length ∧ hostMemWrite a bs s = .fault .hostBadAddress) := by
  unfold hostMemWrite
  by_cases hb : a + bs.length ≤ s.platform.memSize
  · cases ht : touchesActive ⟨a, bs.length⟩ s <;> simp [Region.inBounds, hb, ht]
  · simp [Region.inBounds, hb]; omega

/-- When a region touches an active one, in arithmetic (R50, R140). -/
theorem touchesActive_iff (r : Region) (s : State) :
    touchesActive r s = true ↔
      ∃ x ∈ s.unobserved, ∃ t, (t ∈ x.reads ∨ x.dst = some t) ∧
        0 < r.len ∧ 0 < t.len ∧ r.base < t.base + t.len ∧ t.base < r.base + r.len := by
  simp only [touchesActive, ActiveRegions.all, List.any_eq_true, List.mem_append, Option.mem_toList, overlaps_iff]

/-- When an address lies in an unobserved destination (R50, R140). -/
theorem inUnobservedDst_iff (s : State) (a : Nat) :
    inUnobservedDst s a = true ↔ ∃ x ∈ s.unobserved, ∃ d, x.dst = some d ∧ d.has a = true := by
  simp only [inUnobservedDst, List.any_eq_true, Option.mem_toList]

/-- What a reset frees lies in the destination of the running command and in no region it reads (R137; log 8). -/
theorem memAfterReset_read (s : State) (w : Word) (a : Nat) (hb : s.seq = .busy w)
    (h : (∀ d, (wordRegions w s).dst = some d → d.has a = false) ∨ ∃ r ∈ (wordRegions w s).reads, r.has a = true) :
    (memAfterReset s).read a = s.mem.read a := by
  unfold memAfterReset
  rw [hb]
  simp only
  cases hd : (wordRegions w s).dst with
  | none => rfl
  | some d =>
    refine freeRegion_read _ _ _ _ _ _ _ ?_
    rcases h with h | ⟨r, hr, ha⟩
    · have := h d hd
      rw [← Bool.not_eq_true, has_iff] at this
      omega
    · exact .inr (.inr (List.any_eq_true.mpr ⟨r, hr, ha⟩))

@[simp] theorem hostBytes_length (s : State) (k a n : Nat) : (hostBytes s k a n).length = n := by
  induction n generalizing k a with
  | zero => rfl
  | succ n ih => simp [hostBytes, ih]

/-- The memory keeps its canonical form through every reset (R136, R137). -/
theorem memAfterReset_wf (s : State) (h : s.mem.wf) : (memAfterReset s).wf := by
  unfold memAfterReset
  split
  · exact h
  · split
    · exact h
    · exact freeRegion_wf _ _ _ _ _ _ h

theorem reset_mem_wf : State.reset.mem.wf := by simp [State.reset, Memory.wf]

end Sys2Proof.Machine
end

