-- ==== Sys2Proof/Laws/PerInstr.lean ====
section
/-! SUPPORT. One family of facts about the commands as syntax: the word of a well-formed command lies in its row of the
opcode table (R58). -/

namespace Sys2Proof.Laws.EncodeInRow

/-- The `mask` of a command's row in the opcode table (R58). -/
def mask : Instr → Word
  | .nop => 0xFFFFFFFF
  | .enc _ _ _ => 0xFFFFFE0F
  | .dec => 0xFFFFFFFF
  | .lcgSeed => 0xFFFFFFFF
  | .lcgNext => 0xFFFFFFFF
  | .lcgBlock => 0xFFFFFFFF
  | .rotBlock => 0xFFFFFFFF
  | .lcgTag _ => 0xFFFFFEFF

/-- The `match` of a command's row in the opcode table (R58). -/
def pattern : Instr → Word
  | .nop => 0x00000000
  | .enc _ _ _ => 0x00000001
  | .dec => 0x00000002
  | .lcgSeed => 0x00000003
  | .lcgNext => 0x00000004
  | .lcgBlock => 0x00000005
  | .rotBlock => 0x00000006
  | .lcgTag _ => 0x00000007

/-- The word of a well-formed command matches its row. -/
def Statement (i : Instr) : Prop := i.wf = true → encode i &&& mask i = pattern i

theorem nop : Statement .nop := by unfold Statement; decide
theorem dec : Statement .dec := by unfold Statement; decide
theorem lcgSeed : Statement .lcgSeed := by unfold Statement; decide
theorem lcgNext : Statement .lcgNext := by unfold Statement; decide
theorem lcgBlock : Statement .lcgBlock := by unfold Statement; decide
theorem rotBlock : Statement .rotBlock := by unfold Statement; decide
theorem lcgTag (tagb : Bool) : Statement (.lcgTag tagb) := by cases tagb <;> unfold Statement <;> decide

theorem enc (ver : Nat) (ivs tagb : Bool) : Statement (.enc ver ivs tagb) := by
  intro h
  have hv : ver < 8 := by simpa [Instr.wf] using h
  interval_cases ver <;> cases ivs <;> cases tagb <;> decide

end Sys2Proof.Laws.EncodeInRow
end

