-- ==== Sys2Proof/Tests/Slice0.lean ====
section
/-! SUPPORT. The model's own tests. Expected results are the spec's: the encoding table of R62, and 95_test_vectors.md (named by its
vector). The witnesses show that the hypotheses of each statement can be met. -/

namespace Sys2Proof.Tests

open Sys2Proof Sys2Proof.Machine

/-! ### Small states -/

/-- The test configuration of 95_test_vectors.md, at a base address of our own. -/
def platform : Platform := { csrBase := 0x40000000, memSize := 0x10000, v2Trailer := 0 }

/-- A CSR write by its window offset. -/
def wr (off v : Nat) : Input := .csrWrite (0x40000000 + BitVec.ofNat 32 off) 4 (BitVec.ofNat 32 v)

/-- A CSR read by its window offset. -/
def rd (off : Nat) : Input := .csrRead (0x40000000 + BitVec.ofNat 32 off) 4

/-- The state V-ERR starts from, with moves to come. -/
def demo (inputs : List Input) : State :=
  { State.launch platform [(0x00, 0x41), (0x12, 0x30), (0x13, 0x39)] inputs with
    srcAddr := 0x0000
    srcLen := 1
    ivAddr := 0x0010
    ivLen := 4
    dstAddr := 0x0100
    dstCap := 0x0200 }

/-- The same, with a command accepted and no move left. -/
def busyDemo (w : Word) : State := { demo [] with seq := .busy w }

/-- STATUS as a host reads it after one step, and DST_LEN (the columns of V-ERR). -/
def outcome (o : Host.Outcome State Fault Refusal) : Option (Word × Word) :=
  match o with
  | .next t => some (statusWord t, t.dstLen)
  | .fault _ => none
  | .refused _ => none

/-- A version-3 payload's header for seed 12345 and its trailer, all zeros between (V-SC1), as DEC's source. -/
def payload : State :=
  { State.launch platform [(0x02, 0x30), (0x03, 0x39), (0x104, 0xEA)] [] with
    srcAddr := 0x0000
    srcLen := 261
    dstAddr := 0x0400
    dstCap := 0x0100 }

/-! ### Well-formed terms -/

theorem test_wf_refuses_wide_ver : (Instr.enc 8 false false).wf = false := by decide
theorem test_wf_admits_ver7 : (Instr.enc 7 true true).wf = true := by decide

/-! ### Decoding: words written out from the encodings of R56, R58 and R62 -/

theorem test_decode_nop : decode 0b00000000000000000000000_0_0_000_0000 = .ok .nop := by decide
theorem test_decode_enc : decode 0b00000000000000000000000_1_0_101_0001 = .ok (.enc 5 false true) := by decide
theorem test_decode_enc_ivs : decode 0b00000000000000000000000_0_1_011_0001 = .ok (.enc 3 true false) := by decide
theorem test_decode_dec : decode 0b00000000000000000000000_0_0_000_0010 = .ok .dec := by decide
theorem test_decode_lcgSeed : decode 0b00000000000000000000000_0_0_000_0011 = .ok .lcgSeed := by decide
theorem test_decode_lcgNext : decode 0b00000000000000000000000_0_0_000_0100 = .ok .lcgNext := by decide
theorem test_decode_lcgBlock : decode 0b00000000000000000000000_0_0_000_0101 = .ok .lcgBlock := by decide
theorem test_decode_rotBlock : decode 0b00000000000000000000000_0_0_000_0110 = .ok .rotBlock := by decide
theorem test_decode_lcgTag : decode 0b00000000000000000000000_1_0_000_0111 = .ok (.lcgTag true) := by decide
theorem test_decode_bit31 : decode 0b10000000000000000000000_0_0_000_0000 = .error .reservedBits := by decide
theorem test_decode_op8 : decode 0b00000000000000000000000_0_0_000_1000 = .error .reservedOpcode := by decide
theorem test_decode_dec_with_ver : decode 0b00000000000000000000000_0_0_001_0010 = .error .unusedField := by decide
theorem test_decode_tag_with_ivs : decode 0b00000000000000000000000_0_1_000_0111 = .error .unusedField := by decide
theorem test_encode_enc : encode (.enc 3 true true) = 0x000001B1 := by decide
theorem test_tableWord : decodeTableWord 32 0x1D1 = some (.enc 5 true true) := by decide
theorem test_tableWord_long : decodeTableWord 40 0x1D1 = none := by decide

/-! ### Keystream, padding, tags, chain (95_test_vectors.md) -/

theorem test_lcgNext_12345 : lcgNext 0x00003039 = (0xDC, 0xD3DC167E) := by decide +kernel
theorem test_lcgNext_wraps : lcgNext 0xFFFFFFFF = (0x39, 0xBE39E1CC) := by decide +kernel
/-- V-KS1: the state after 256 draws, and the 257th draw. -/
theorem test_lcgBlock_state : (lcgBlock 0x00003039).2 = 0xF2CAE739 ∧ trailerByte 0x00003039 = 0xEE := by decide +kernel
/-- V-KS2, bytes 240 to 247 from seed 0x14. -/
theorem test_lcgBlock_tail : slice (lcgBlock 0x14).1 240 248 = [0xE8, 0x8D, 0x55, 0x22, 0x8D, 0xEB, 0x60, 0xD6] := by
  decide +kernel
/-- V-ROTL. -/
theorem test_rotl8 : (List.range 8).map (rotl8 0xA5) = [0xA5, 0x4B, 0x96, 0x2D, 0x5A, 0xB4, 0x69, 0xD2] := by decide +kernel
/-- V-TAG, rows 0x1C and 0xEE. -/
theorem test_tags : [tagA 0x1C false, tagA 0x1C true, tagB 0x1C, tagA 0xEE false, tagA 0xEE true, tagB 0xEE] =
    [0x08, 0x18, 0x10, 0xEA, 0xEA, 0xF2] := by decide
/-- V-PAD, n = 255 and n = 256. -/
theorem test_pad : (pad (List.replicate 255 0xAA)).getD 255 0 = 1 ∧ (pad (List.replicate 256 0xAA)).length = 512 ∧
    (unpad (pad (List.replicate 256 0xAA))).length = 512 := by decide +kernel

/-- The test stub of BcEnc. -/
def stubEnc (x : List Byte) : List Byte := (x.drop 1 ++ x.take 1).map (· ^^^ 0x5A)

/-- The test stub of BcDec. -/
def stubDec (y : List Byte) : List Byte := let z := y.map (· ^^^ 0x5A); z.drop 15 ++ z.take 15

/-- V-CH1's K0. -/
def stubKey : List Byte := (List.range 16).map (BitVec.ofNat 8)

/-- V-CH1's ciphertext. -/
def stubCipher : List Byte :=
  [0x1A, 0x19, 0x18, 0x1F, 0x1E, 0x1D, 0x1C, 0x13, 0x12, 0x11, 0x10, 0x17, 0x16, 0x15, 0x14, 0x1B,
    0x43, 0x42, 0x45, 0x44, 0x47, 0x46, 0x49, 0x48, 0x4B, 0x4A, 0x4D, 0x4C, 0x4F, 0x4E, 0x41, 0x40]

theorem test_chainEnc : chainEnc stubEnc 16 stubKey (List.replicate 16 0x41 ++ zeros 16) = stubCipher := by decide +kernel
theorem test_chainDec : chainDec stubDec 16 stubKey stubCipher = List.replicate 16 0x41 ++ zeros 16 := by decide +kernel

/-- V-SC1's body, its ends: the chain with the rotation stub over the block of seed 12345 and Pad([0x41]). -/
theorem test_chainEnc_256 :
    let body := chainEnc (fun x => x.drop 1 ++ x.take 1) 256 (lcgBlock 0x00003039).1 (pad [0x41])
    slice body 0 4 = [0x04, 0x65, 0xAA, 0x1F] ∧ slice body 254 256 = [0x35, 0x9D] := by decide +kernel

/-! ### One step of each command -/

theorem test_nop : outcome (step (busyDemo 0x00000000)) = some (0x00000002, 0) := by decide
theorem test_illegal : outcome (step (busyDemo 0x00000012)) = some (0x00000066, 0) := by decide
theorem test_enc_default_version : outcome (step (busyDemo 0x00000081)) = some (0x00000036, 0) := by decide
/-- V-ERR, first row: STATUS and DST_LEN do not depend on what the collaborators are. -/
theorem test_enc : outcome (step (busyDemo 0x000000B1)) = some (0x00000302, 261) := by decide +kernel
/-- V-ERR, SRC_LEN = 5. -/
theorem test_dec_short : outcome (step { busyDemo 0x00000002 with srcLen := 5 }) = some (0x00000046, 0) := by decide
/-- V-ERR, SRC_LEN = 261 with DST_ADDR = 0x0200. -/
theorem test_dec_integrity : outcome (step { busyDemo 0x00000002 with srcLen := 261, dstAddr := 0x0200 }) =
    some (0x00000056, 0) := by decide +kernel
theorem test_lcgSeed : step { busyDemo 0x00000003 with arg := 0x00003039 } =
    .next { demo [] with
      arg := 0x00003039
      lcgState := 0x00003039
      status := { done := true, err := false, ovr := false, ecode := 0, dver := 0 } } := rfl
theorem test_lcgBlock : outcome (step { busyDemo 0x00000005 with dstAddr := 0xFF00 }) = some (0x00000002, 256) := by
  decide +kernel
theorem test_rotBlock_region : outcome (step { busyDemo 0x00000006 with ivLen := 32, dstAddr := 0 }) =
    some (0x00000076, 0) := by decide +kernel
/-- V-RB2, the last byte: IV byte 0x1F rotated left by 7. -/
theorem test_rotBlock :
    let s : State := { busyDemo 0x00000006 with mem := [(0x1F, 0x1F)], ivAddr := 0, ivLen := 32 }
    (match step s with | .next t => some (t.mem.read 0x01FF, t.mem.read 0x0200) | _ => none) = some (0x8F, 0x00) := by
  decide +kernel
/-- V-SC1's trailer 0xEA is accepted: STATUS of the DEC, whatever the collaborators are. -/
theorem test_dec_status : (outcome (step { payload with seq := .busy 0x00000002 })).map (·.1) = some 0x00000302 := by
  decide +kernel
/-- P4: STATUS 0x30A after ACK reads 0x300. -/
theorem test_ack :
    outcome (step { demo [wr 0x08 0xA] with status := { done := true, err := false, ovr := true, ecode := 0, dver := 3 } }) =
      some (0x00000300, 0) := by decide
/-- R77 names (DST_ADDR, 256) whatever IV_LEN is, and R101 gives an ENC's length whatever IV_LEN is. -/
theorem test_activeRegions_of_failing :
    (activeRegions .rotBlock { demo [] with ivLen := 31 }).dst = some ⟨0x0100, 256⟩ ∧
      (activeRegions (.enc 3 true false) { demo [] with ivLen := 32 }).dst = some ⟨0x0100, 261⟩ ∧
      (activeRegions (.enc 6 true false) (demo [])).dst = none := by decide
/-- P1: LCG_TAG after 256 draws from seed 12345 gives 0xEA. -/
theorem test_lcgTag :
    (match step { busyDemo 0x00000007 with lcgState := 0xF2CAE739 } with
      | .next t => some (t.result, t.lcgState) | _ => none) = some (0xEA, 0x81EE017E) := by decide +kernel

/-! ### Witnesses: the hypotheses of each statement are met -/

theorem witness_DecodeEncodeRoundTrip :
    (Instr.enc 0 false false).wf = true ∧ (Instr.enc 7 true true).wf = true ∧ (Instr.lcgTag true).wf = true := by decide

theorem witness_EncodeDecodedWord :
    decode 0x000001F1 = .ok (.enc 7 true true) ∧ decode 0x00000107 = .ok (.lcgTag true) := by decide

theorem witness_CommandFields :
    decode 0x00000171 = .ok (.enc 7 false true) ∧ decode 0x00000081 = .ok (.enc 0 true false) ∧
      decode 0x00000007 = .ok (.lcgTag false) := by decide

theorem witness_StepRunsDecodedCommand :
    (busyDemo 0x000000B1).seq = .busy 0x000000B1 ∧ decode 0x000000B1 = .ok (.enc 3 true false) ∧
      (busyDemo 0x000000B1).engineNext [] ∧
      State.engineNext { busyDemo 0x000000B1 with inputs := [.engine, .reset] } [.reset] ∧
      (Instr.enc 3 true false).wf = true := by decide

/-- One word for each of the four kinds of illegal word. -/
theorem witness_IllegalWordCompletes_words :
    8 ≤ (0x00000008 : Word).toNat % 2 ^ 4 ∧ (0x00000201 : Word).toNat / 2 ^ 9 ≠ 0 ∧
      ((0x00000100 : Word).toNat % 2 ^ 4 ≠ 1 ∧ (0x00000100 : Word).toNat % 2 ^ 4 ≠ 7 ∧
        (0x00000100 : Word).toNat / 2 ^ 4 % 2 ^ 5 ≠ 0) ∧
      (0x00000087 : Word).toNat % 2 ^ 4 = 7 ∧ (0x00000087 : Word).toNat / 2 ^ 4 % 2 ^ 4 ≠ 0 := by decide

theorem witness_IllegalWordCompletes_states :
    ((demo [wr 0x0C 8]).seq = .idle ∧
      (demo [wr 0x0C 8]).inputs = .csrWrite ((demo [wr 0x0C 8]).platform.csrBase + 0x0C) 4 8 :: []) ∧
      (busyDemo 8).seq = .busy 8 ∧ (busyDemo 8).engineNext [] := by decide

theorem witness_CmdWriteIsAccepted :
    (demo [wr 0x0C 0xB1]).seq = .idle ∧
      (demo [wr 0x0C 0xB1]).inputs = .csrWrite ((demo [wr 0x0C 0xB1]).platform.csrBase + 0x0C) 4 0xB1 :: [] := by decide

theorem witness_CmdWriteWhileBusySetsOvr :
    let s : State := { busyDemo 0xB1 with inputs := [wr 0x0C 0] }
    s.seq = .busy 0xB1 ∧ s.inputs = .csrWrite (s.platform.csrBase + 0x0C) 4 0 :: [] := by decide

/-- A memory read, a write to the lowest and to the highest operand register, and a write to STATUS, all while BUSY. -/
theorem witness_OperandsFrozenWhileBusy :
    let m : State := { busyDemo 0xB1 with inputs := [.memRead 0 1] }
    let c : State := { busyDemo 0xB1 with inputs := [wr 0x04 0x31] }
    let a : State := { busyDemo 0xB1 with inputs := [wr 0x2C 7] }
    let u : State := { busyDemo 0xB1 with inputs := [wr 0x08 0xA] }
    (m.seq = .busy 0xB1 ∧ m.inputs = .memRead 0 1 :: [] ∧ Input.memRead 0 1 ≠ .engine ∧ Input.memRead 0 1 ≠ .reset ∧
        ∃ t, step m = .next t) ∧
      (c.seq = .busy 0xB1 ∧ 0x04 ∈ [0x04, 0x10, 0x14, 0x18, 0x1C, 0x24, 0x28, 0x2C] ∧
        c.inputs = .csrWrite (c.platform.csrBase + BitVec.ofNat 32 0x04) 4 0x31 :: []) ∧
      (a.seq = .busy 0xB1 ∧ 0x2C ∈ [0x04, 0x10, 0x14, 0x18, 0x1C, 0x24, 0x28, 0x2C] ∧
        a.inputs = .csrWrite (a.platform.csrBase + BitVec.ofNat 32 0x2C) 4 7 :: []) ∧
      u.seq = .busy 0xB1 ∧ u.inputs = .csrWrite (u.platform.csrBase + 0x08) 4 0xA :: [] :=
  ⟨⟨rfl, rfl, by decide, by decide, _, rfl⟩, by decide, by decide, by decide⟩

/-- ACK in IDLE with DONE and OVR set, as P4's host writes it. -/
theorem witness_StatusWriteClears :
    let s : State :=
      { demo [wr 0x08 0xA] with status := { done := true, err := false, ovr := true, ecode := 0, dver := 3 } }
    s.inputs = .csrWrite (s.platform.csrBase + 0x08) 4 0xA :: [] := by decide

/-- The first and the last offset read, a write to each end of the read-only offsets, and the two refused forms. -/
theorem witness_CsrAccessRules :
    (demo [rd 0]).inputs = .csrRead ((demo [rd 0]).platform.csrBase + BitVec.ofNat 32 0) 4 :: [] ∧
      (demo [rd 0xFC]).inputs = .csrRead ((demo [rd 0xFC]).platform.csrBase + BitVec.ofNat 32 0xFC) 4 :: [] ∧
      (demo [wr 0x34 1]).inputs = .csrWrite ((demo [wr 0x34 1]).platform.csrBase + BitVec.ofNat 32 0x34) 4 1 :: [] ∧
      (demo [wr 0x38 1]).inputs = .csrWrite ((demo [wr 0x38 1]).platform.csrBase + BitVec.ofNat 32 0x38) 4 1 :: [] ∧
      (demo [.csrRead 0x40000004 2]).inputs =
        .csrRead ((demo []).platform.csrBase + BitVec.ofNat 32 0x04) 2 :: [] ∧
      (demo [.csrWrite 0x400000FF 4 1]).inputs =
        .csrWrite ((demo []).platform.csrBase + BitVec.ofNat 32 0xFF) 4 1 :: [] := by decide

theorem witness_IdIsConstant :
    (demo [rd 0]).inputs = .csrRead (demo [rd 0]).platform.csrBase 4 :: [] ∧
      (demo [wr 0 5]).inputs = .csrWrite (demo [wr 0 5]).platform.csrBase 4 5 :: [] := by decide

theorem witness_CtrlReadWrite :
    (demo [wr 0x04 0xFFFFFFFF]).seq = .idle ∧
      (demo [wr 0x04 0xFFFFFFFF]).inputs =
        .csrWrite ((demo []).platform.csrBase + 0x04) 4 0xFFFFFFFF :: [] := by decide

/-- The lowest and the highest operand register. -/
theorem witness_OperandRegistersReadBack :
    0x10 ∈ [0x10, 0x14, 0x18, 0x1C, 0x24, 0x28, 0x2C] ∧ 0x2C ∈ [0x10, 0x14, 0x18, 0x1C, 0x24, 0x28, 0x2C] ∧
      (demo []).seq = .idle ∧
      (demo [wr 0x10 1]).inputs = .csrWrite ((demo []).platform.csrBase + BitVec.ofNat 32 0x10) 4 1 :: [] ∧
      (demo [wr 0x2C 1]).inputs = .csrWrite ((demo []).platform.csrBase + BitVec.ofNat 32 0x2C) 4 1 :: [] := by decide

theorem witness_InterruptIsDoneAndEnable : (demo [.irqSample]).inputs = .irqSample :: [] := by decide

theorem witness_InterruptIsCleared :
    (demo [wr 0x08 0xA]).inputs = .csrWrite ((demo []).platform.csrBase + 0x08) 4 0x0000000A :: [] ∧
      (demo []).seq = .idle ∧
      (demo [wr 0x0C 0]).inputs = .csrWrite ((demo []).platform.csrBase + 0x0C) 4 0 :: [] ∧
      (0x00000030 : Word).getLsbD 0 = false ∧
      (demo [wr 0x04 0x30]).inputs = .csrWrite ((demo []).platform.csrBase + 0x04) 4 0x30 :: [] := by decide

theorem witness_IdleEngineDoesNothing :
    (demo []).seq = .idle ∧ (demo []).engineNext [] ∧ (demo [.engine, rd 0]).engineNext [rd 0] := by decide

theorem witness_NopCompletes :
    (0x80000000 : Word).toNat % 2 ^ 4 = 0 ∧ (0x80000000 : Word) ≠ 0 ∧
      (let s : State := { demo [] with ctrl := { ie := true, tagGen := false, defVer := 0 } }
       s.ctrl.ie = true ∧ ∃ t, exec .nop s = .next t) := ⟨by decide, by decide, rfl, _, rfl⟩

/-- The three states of the rule's cases. -/
theorem witness_LcgNextCompletes :
    (demo []).lcgState = 0 ∧ ({ demo [] with lcgState := 0xFFFFFFFF } : State).lcgState = 0xFFFFFFFF ∧
      ({ demo [] with lcgState := 0x00003039 } : State).lcgState = 0x00003039 := by decide

/-- The last address that fits, and one past it. -/
theorem witness_LcgBlockCompletes :
    ({ demo [] with lcgState := 12345 } : State).lcgState = 12345 ∧
    (let s : State := { demo [] with dstAddr := 0xFF00, dstCap := 256 }
     s.dstAddr.toNat + 256 ≤ s.platform.memSize ∧ 256 ≤ s.dstCap.toNat) ∧
      (let s : State := { demo [] with dstAddr := 0xFF01 }
       ¬(s.dstAddr.toNat + 256 ≤ s.platform.memSize ∧ 256 ≤ s.dstCap.toNat)) := by decide

/-- IV_LEN 31; a destination on the IV; and regions that touch and do not meet. -/
theorem witness_RotBlockCompletes :
    (let s : State := { demo [] with ivLen := 31 }
     s.ivLen.toNat ≠ 32) ∧
      (let s : State := { demo [] with ivLen := 32, dstAddr := 0x2F }
       s.ivLen.toNat = 32 ∧
        ¬(s.ivAddr.toNat + 32 ≤ s.platform.memSize ∧ s.dstAddr.toNat + 256 ≤ s.platform.memSize ∧
          256 ≤ s.dstCap.toNat ∧ ¬meet s.dstAddr.toNat 256 s.ivAddr.toNat 32)) ∧
      (let s : State := { demo [] with ivLen := 32, dstAddr := 0x30, dstCap := 256 }
       s.ivLen.toNat = 32 ∧ s.ivAddr.toNat + 32 ≤ s.platform.memSize ∧ s.dstAddr.toNat + 256 ≤ s.platform.memSize ∧
        256 ≤ s.dstCap.toNat ∧ ¬meet s.dstAddr.toNat 256 s.ivAddr.toNat 32) := by decide

theorem witness_LcgTagCompletes :
    (0x00000187 : Word).toNat % 2 ^ 4 = 7 ∧ (0x00000187 : Word) ≠ 0x00000007 ∧ (0x00000187 : Word) ≠ 0x00000107 ∧
      ({ demo [] with lcgState := 0xF2CAE739 } : State).lcgState = 0xF2CAE739 ∧
      ({ demo [] with ctrl := { ie := false, tagGen := true, defVer := 0 } } : State).ctrl.tagGen = true ∧
      (demo []).ctrl.tagGen = false := by decide

/-- ENC v3 with a supplied header whose payload ends at MEM_SIZE and fills DST_CAP. -/
theorem witness_EncCompletes :
    let s : State := { demo [] with dstAddr := 0xFEFB, dstCap := 261 }
    Version.ofNumber (effVer 3 s.ctrl) = some .v3 ∧ 0 < s.srcLen.toNat ∧
      (true = true → s.ivLen.toNat = Version.headerLen .v3) ∧
      s.srcAddr.toNat + s.srcLen.toNat ≤ s.platform.memSize ∧
      (true = true → s.ivAddr.toNat + Version.headerLen .v3 ≤ s.platform.memSize) ∧
      s.dstAddr.toNat + Version.payloadLen .v3 s.srcLen.toNat ≤ s.platform.memSize ∧
      Version.payloadLen .v3 s.srcLen.toNat ≤ s.dstCap.toNat ∧
      ¬meet s.dstAddr.toNat (Version.payloadLen .v3 s.srcLen.toNat) s.srcAddr.toNat s.srcLen.toNat ∧
      (true = true → ¬meet s.dstAddr.toNat (Version.payloadLen .v3 s.srcLen.toNat) s.ivAddr.toNat (Version.headerLen .v3)) ∧
      s.hung.blocks (Version.encodeCalls .v3) = false := by decide

/-- ENC v1 with a drawn header. -/
theorem witness_EncCompletes_drawn :
    let s : State := demo []
    Version.ofNumber (effVer 1 s.ctrl) = some .v1 ∧ 0 < s.srcLen.toNat ∧
      (false = true → s.ivLen.toNat = Version.headerLen .v1) ∧
      s.srcAddr.toNat + s.srcLen.toNat ≤ s.platform.memSize ∧
      (false = true → s.ivAddr.toNat + Version.headerLen .v1 ≤ s.platform.memSize) ∧
      s.dstAddr.toNat + Version.payloadLen .v1 s.srcLen.toNat ≤ s.platform.memSize ∧
      Version.payloadLen .v1 s.srcLen.toNat ≤ s.dstCap.toNat ∧
      ¬meet s.dstAddr.toNat (Version.payloadLen .v1 s.srcLen.toNat) s.srcAddr.toNat s.srcLen.toNat ∧
      (false = true →
        ¬meet s.dstAddr.toNat (Version.payloadLen .v1 s.srcLen.toNat) s.ivAddr.toNat (Version.headerLen .v1)) ∧
      s.hung.blocks (Version.encodeCalls .v1) = false := by decide

/-- V-ERR: DEFVER 0 and VER 6; SRC_LEN 0; IV_LEN 32 under version 3; DST_CAP one short. -/
theorem witness_EncErrors :
    effVer 0 (demo []).ctrl ∉ [1, 2, 3, 4, 5] ∧ effVer 6 (demo []).ctrl ∉ [1, 2, 3, 4, 5] ∧
      Version.ofNumber (effVer 3 (demo []).ctrl) = some .v3 ∧
      ({ demo [] with srcLen := 0 } : State).srcLen.toNat = 0 ∧
      (let s : State := { demo [] with ivLen := 32 }
       s.srcLen.toNat ≠ 0 ∧ true = true ∧ s.ivLen.toNat ≠ Version.headerLen .v3) ∧
      (let s : State := { demo [] with dstCap := 260 }
       s.srcLen.toNat ≠ 0 ∧ (true = true → s.ivLen.toNat = Version.headerLen .v3) ∧
        s.dstCap.toNat < Version.payloadLen .v3 s.srcLen.toNat) := by decide

theorem witness_PayloadLayout :
    1 ≤ ([0x41] : List Byte).length ∧ (zeros 32).length = Version.headerLen .v1 ∧
      (zeros 4).length = Version.headerLen .v5 := by decide

/-- The shortest payload of each family, the version-3 one with a trailer its seed gives. -/
theorem witness_DecCompletes :
    let s := payload
    let p := s.mem.readBytes s.srcAddr.toNat s.srcLen.toNat
    (s.srcLen.toNat % 256 = 5 ∧ 261 ≤ s.srcLen.toNat) ∧
      s.srcAddr.toNat + s.srcLen.toNat ≤ s.platform.memSize ∧
      s.dstAddr.toNat + (s.srcLen.toNat - s.srcLen.toNat % 256) ≤ s.platform.memSize ∧
      s.srcLen.toNat - s.srcLen.toNat % 256 ≤ s.dstCap.toNat ∧
      ¬meet s.dstAddr.toNat (s.srcLen.toNat - s.srcLen.toNat % 256) s.srcAddr.toNat s.srcLen.toNat ∧
      Family.version .tagged p = .v3 ∧
      trailerAccepted (s.mem.read (s.srcAddr.toNat + (s.srcLen.toNat - 1))) (be32 (p.take 4)) s.ctrl.tagGen = true ∧
      s.hung.blocks (Family.version .tagged p).decodeCalls = false := by decide +kernel

theorem witness_DecCompletes_families :
    (let s : State := { payload with srcLen := 288 }
     (s.srcLen.toNat % 256 = 32 ∧ 288 ≤ s.srcLen.toNat) ∧
      s.srcAddr.toNat + s.srcLen.toNat ≤ s.platform.memSize ∧
      s.dstAddr.toNat + (s.srcLen.toNat - s.srcLen.toNat % 256) ≤ s.platform.memSize ∧
      s.srcLen.toNat - s.srcLen.toNat % 256 ≤ s.dstCap.toNat ∧
      ¬meet s.dstAddr.toNat (s.srcLen.toNat - s.srcLen.toNat % 256) s.srcAddr.toNat s.srcLen.toNat) ∧
      (let s : State := { payload with srcLen := 289 }
       (s.srcLen.toNat % 256 = 33 ∧ 289 ≤ s.srcLen.toNat) ∧
        s.srcAddr.toNat + s.srcLen.toNat ≤ s.platform.memSize ∧
        s.dstAddr.toNat + (s.srcLen.toNat - s.srcLen.toNat % 256) ≤ s.platform.memSize ∧
        s.srcLen.toNat - s.srcLen.toNat % 256 ≤ s.dstCap.toNat ∧
        ¬meet s.dstAddr.toNat (s.srcLen.toNat - s.srcLen.toNat % 256) s.srcAddr.toNat s.srcLen.toNat) := by decide +kernel

/-- Residue 4; the length 5 below the minimum; an overlap at the minimum; and a trailer of 0. -/
theorem witness_DecErrors :
    (260 % 256 ∉ [32, 33, 5] ∧ 5 ∈ [32, 33, 5]) ∧
      (let s : State := { payload with dstAddr := 0x0104 }
       s.srcLen.toNat % 256 ∈ [32, 33, 5] ∧ 256 ≤ s.srcLen.toNat ∧
        meet s.dstAddr.toNat (s.srcLen.toNat - s.srcLen.toNat % 256) s.srcAddr.toNat s.srcLen.toNat) ∧
      (let s : State := { payload with mem := [] }
       s.srcLen.toNat % 256 = 5 ∧
        s.srcAddr.toNat + s.srcLen.toNat ≤ s.platform.memSize ∧
        s.dstAddr.toNat + (s.srcLen.toNat - s.srcLen.toNat % 256) ≤ s.platform.memSize ∧
        s.srcLen.toNat - s.srcLen.toNat % 256 ≤ s.dstCap.toNat ∧
        ¬meet s.dstAddr.toNat (s.srcLen.toNat - s.srcLen.toNat % 256) s.srcAddr.toNat s.srcLen.toNat ∧
        s.mem.read (s.srcAddr.toNat + (s.srcLen.toNat - 1)) ∉
          [0x21, 0x23, tagA (trailerByte (be32 (s.mem.readBytes s.srcAddr.toNat 4))) s.ctrl.tagGen,
            tagB (trailerByte (be32 (s.mem.readBytes s.srcAddr.toNat 4)))]) := by decide +kernel

/-- The next state of a step, if it has one. -/
def after (o : Host.Outcome State Fault Refusal) : State :=
  match o with
  | .next t => t
  | .fault _ => State.reset
  | .refused _ => State.reset

/-- The three clauses of CompletionReportsVersion: a successful ENC, a successful DEC, an error. -/
theorem witness_CompletionReportsVersion :
    (step (busyDemo 0xB1) = .next (after (step (busyDemo 0xB1))) ∧ (after (step (busyDemo 0xB1))).seq = .idle ∧
      decode 0xB1 = .ok (.enc 3 true false) ∧ (after (step (busyDemo 0xB1))).status.ecode = 0) ∧
      (let s : State := { payload with seq := .busy 2 }
       step s = .next (after (step s)) ∧ (after (step s)).seq = .idle ∧ decode 2 = .ok .dec ∧
        (after (step s)).status.ecode = 0) ∧
      (step (busyDemo 8) = .next (after (step (busyDemo 8))) ∧ (after (step (busyDemo 8))).seq = .idle ∧
        (after (step (busyDemo 8))).status.ecode ≠ 0) := by
  have h : ∀ s w i, s.inputs = [] → s.seq = .busy w → decode w = .ok i → step s = .next (after (step s)) := by
    intro s w i h1 h2 h3
    obtain ⟨t, ht⟩ := exec_answers_next i s
    have : step s = .next t := by simp only [step, nextMove, h1, engineTurn, h2, h3]; exact ht
    rw [this]; rfl
  exact ⟨⟨h _ 0xB1 (.enc 3 true false) rfl rfl (by decide), by decide +kernel, by decide, by decide +kernel⟩,
    ⟨h _ 2 .dec rfl rfl (by decide), by decide +kernel, by decide, by decide +kernel⟩, rfl, by decide, by decide⟩

/-- An ENC v3 is set up with V-TM1's header 00 00 00 0D: the 257th byte of seed 13 has bit 4 set. -/
def encodeFrom : State := { demo [] with mem := [(0x00, 0x41), (0x13, 0x0D)] }

/-- Its payload. -/
def encodedBytes : List Byte :=
  encodePayload Config.collaborators 0 .v3 (encodeFrom.mem.readBytes 0x00 1) (encodeFrom.mem.readBytes 0x10 4) false false

/-- What it leaves. -/
def encoded : State := completeVersion .v3 (storeOutput encodedBytes 261 encodeFrom)

/-- The same memory with a DEC of it set up, under a TAGGEN. -/
def decodeOf (gen : Bool) : State :=
  { encoded with
    srcAddr := 0x0100
    srcLen := 261
    dstAddr := 0x0400
    dstCap := 0x0100
    ctrl := { ie := false, tagGen := gen, defVer := 0 } }

theorem encoded_eq : exec (.enc 3 true false) encodeFrom = .next encoded := by
  have h3 : encVersion 3 true encodeFrom = .ok .v3 := by decide
  rcases encWith_cases Config.collaborators 3 true false encodeFrom with
    ⟨_, hv, -⟩ | ⟨v, hv, h⟩
  · rw [h3] at hv; cases hv
  · rw [h3] at hv
    injection hv with hv
    subst hv
    rcases h with ⟨hr, -⟩ | ⟨-, ⟨hb, -⟩ | ⟨-, he⟩⟩
    · exact absurd hr (by decide)
    · exact absurd hb (by decide)
    · exact he

theorem decodeOf_mem (gen : Bool) : (decodeOf gen).mem = encoded.mem := by simp only [decodeOf]
theorem encoded_dstAddr : encoded.dstAddr.toNat = 0x0100 := by simp [encoded, encodeFrom, demo]
theorem encoded_dstLen : encoded.dstLen = 261 := by simp [encoded]

/-- The hypotheses both clauses share, for a DEC under either TAGGEN. -/
theorem witness_EncDecRoundTrip (gen : Bool) :
    encodeFrom.hung.none ∧ (decodeOf gen).hung.none ∧ exec (.enc 3 true false) encodeFrom = .next encoded ∧
      encoded.status.ecode = 0 ∧ (decodeOf gen).srcLen = encoded.dstLen ∧
      (decodeOf gen).mem.readBytes (decodeOf gen).srcAddr.toNat (decodeOf gen).srcLen.toNat =
        encoded.mem.readBytes encoded.dstAddr.toNat encoded.dstLen.toNat ∧
      (decodeOf gen).srcAddr.toNat + (decodeOf gen).srcLen.toNat ≤ (decodeOf gen).platform.memSize ∧
      (decodeOf gen).dstAddr.toNat + paddedLen encodeFrom.srcLen.toNat ≤ (decodeOf gen).platform.memSize ∧
      paddedLen encodeFrom.srcLen.toNat ≤ (decodeOf gen).dstCap.toNat ∧
      ¬meet (decodeOf gen).dstAddr.toNat (paddedLen encodeFrom.srcLen.toNat) (decodeOf gen).srcAddr.toNat
        (decodeOf gen).srcLen.toNat := by
  refine ⟨by decide, ?_, encoded_eq, ?_, ?_, ?_, ?_⟩
  · simp only [decodeOf, encoded, completeVersion_hung, storeOutput_hung]; decide
  · simp [encoded, completeStatus]
  · rw [encoded_dstLen]; rfl
  · rw [encoded_dstLen, encoded_dstAddr, decodeOf_mem]; simp [decodeOf]
  · simp only [decodeOf, encoded, completeVersion_platform, storeOutput_platform]; decide

/-- The header of that payload in memory. -/
theorem encoded_header : encoded.mem.readBytes 0x0100 4 = [0x00, 0x00, 0x00, 0x0D] := by
  have hl : encodedBytes.length = 261 := encodePayload_length _ _ _ _ _ _ _ rfl
  have hr : ∀ k < 4, encoded.mem.read (0x0100 + k) = (encodeFrom.mem.readBytes 0x10 4).getD k 0 := by
    intro k hk
    have e : encoded.mem = encodeFrom.mem.writeBytes 0x0100 encodedBytes := by
      simp [encoded, encodeFrom, demo]
    rw [e, Memory.read_writeBytes, if_pos (by omega), Nat.add_sub_cancel_left]
    simp only [encodedBytes, encodePayload]
    rw [List.append_assoc, List.getD_append _ _ _ _ (by simpa using hk)]
  simp only [Memory.readBytes, Nat.reduceAdd]
  rw [hr 0 (by decide), hr 1 (by decide), hr 2 (by decide), hr 3 (by decide)]
  decide

/-- The hypotheses of each clause of EncDecRoundTrip beside. -/
theorem witness_EncDecRoundTrip_clauses :
    (decodeOf false).ctrl.tagGen = encodeFrom.ctrl.tagGen ∧ (decodeOf true).ctrl.tagGen ≠ encodeFrom.ctrl.tagGen ∧
      encoded.status.dver = 3 ∧
      (trailerByte (be32 ((decodeOf true).mem.readBytes (decodeOf true).srcAddr.toNat 4))).getLsbD 4 = true := by
  refine ⟨by decide, by decide, by simp [encoded, completeStatus, Version.number], ?_⟩
  have h : (decodeOf true).mem.readBytes (decodeOf true).srcAddr.toNat 4 = [0x00, 0x00, 0x00, 0x0D] := by
    rw [decodeOf_mem, show (decodeOf true).srcAddr.toNat = 0x0100 from rfl]
    exact encoded_header
  rw [h]
  decide +kernel

theorem witness_CodecIgnoresLcgState :
    ((Instr.dec = .dec ∨ ∃ ver ivs tagb, Instr.dec = .enc ver ivs tagb)) ∧
      (Instr.enc 3 true false = .dec ∨ ∃ ver ivs tagb, Instr.enc 3 true false = .enc ver ivs tagb) :=
  ⟨.inl rfl, .inr ⟨3, true, false, rfl⟩⟩

/-- ENC of the same bytes to two places, the version once in VER and once in DEFVER; DEC of the same payload to two places. -/
theorem witness_CodecIsAFunctionOfItsInputs :
    (let s := demo []
     let u : State := { demo [] with dstAddr := 0x0300, ctrl := { ie := true, tagGen := false, defVer := 3 } }
     let t := after (exec (.enc 3 true false) s)
     let x := after (exec (.enc 0 true false) u)
     s.hung.none ∧ u.hung.none ∧ exec (.enc 3 true false) s = .next t ∧ exec (.enc 0 true false) u = .next x ∧
      t.status.ecode = 0 ∧ x.status.ecode = 0 ∧ Version.ofNumber (effVer 3 s.ctrl) = some .v3 ∧
      effVer 0 u.ctrl = effVer 3 s.ctrl ∧ u.ctrl.tagGen = s.ctrl.tagGen ∧
      u.platform.v2Trailer = s.platform.v2Trailer ∧ u.srcLen = s.srcLen ∧
      u.mem.readBytes u.srcAddr.toNat u.srcLen.toNat = s.mem.readBytes s.srcAddr.toNat s.srcLen.toNat ∧
      (encHeader true (Version.headerLen .v3) u).1 = (encHeader true (Version.headerLen .v3) s).1) ∧
      (let s := payload
       let u : State := { payload with dstAddr := 0x0300 }
       let t := after (exec .dec s)
       let x := after (exec .dec u)
       s.hung.none ∧ u.hung.none ∧ exec .dec s = .next t ∧ exec .dec u = .next x ∧ t.status.ecode = 0 ∧
        t.status.ecode ≠ 7 ∧ x.status.ecode ≠ 7 ∧ u.ctrl.tagGen = s.ctrl.tagGen ∧ u.srcLen = s.srcLen ∧
        u.mem.readBytes u.srcAddr.toNat u.srcLen.toNat = s.mem.readBytes s.srcAddr.toNat s.srcLen.toNat) := by
  have h : ∀ i s, exec i s = .next (after (exec i s)) := by
    intro i s
    obtain ⟨t, ht⟩ := exec_answers_next i s
    rw [ht, after]
  exact ⟨⟨by decide, by decide, h _ _, h _ _, by decide +kernel, by decide +kernel, by decide, by decide, by decide,
      by decide, by decide, by decide, by decide⟩,
    by decide, by decide, h _ _, h _ _, by decide +kernel, by decide +kernel, by decide +kernel, by decide, by decide,
    rfl⟩

/-- The shortest plaintext, and lengths at and beside a multiple of 256. -/
theorem witness_PadShape :
    1 ≤ ([0x41] : List Byte).length ∧ 1 ≤ (zeros 256).length ∧ (zeros 256).length % 256 = 0 := by decide +kernel

theorem witness_PadUnpadLaws :
    (1 ≤ (zeros 255).length ∧ (zeros 255).length % 256 ≠ 0) ∧ (1 ≤ (zeros 512).length ∧ (zeros 512).length % 256 = 0) ∧
      256 ≤ (zeros 256).length := by decide +kernel

/-- V-TM2's header with a flip of bit 7, V-TM1's byte, and two bodies of one length. -/
theorem witness_TrailerDetection :
    ([0, 0, 0, 0x14] : List Byte).length = 4 ∧ 7 < 8 ∧ 0 < 8 ∧ (0x1F : Byte).getLsbD 4 = true ∧
      (zeros 256).length = (List.replicate 256 (1 : Byte)).length := by decide +kernel

/-- The test stub of the block cipher, on one block. -/
theorem witness_ChainInverse :
    0 < 16 ∧ (∀ x : List Byte, x.length = 16 → (stubEnc x).length = 16) ∧
      (∀ x : List Byte, x.length = 16 → id (id x) = x) ∧ (∀ x : List Byte, x.length = 16 → (id x).length = 16) ∧
      stubKey.length = 16 ∧ stubCipher.length % 16 = 0 :=
  ⟨by decide, by intro x h; simp [stubEnc]; omega, fun _ _ => rfl, fun _ h => h, by decide, by decide⟩

/-- Two blocks of 16 bytes, block 1 changed. -/
theorem witness_ChainContainment :
    0 < 16 ∧ (∀ x : List Byte, x.length = 16 → (id x).length = 16) ∧ stubKey.length = 16 ∧
      stubCipher.length % 16 = 0 ∧ (stubCipher.set 31 0).length = stubCipher.length ∧
      ∀ i < stubCipher.length / 16, i ≠ 1 →
        slice (stubCipher.set 31 0) (i * 16) ((i + 1) * 16) = slice stubCipher (i * 16) ((i + 1) * 16) :=
  ⟨by decide, fun _ h => h, by decide, by decide, by decide, by decide⟩

/-- LCG_BLOCK at 0x0100 to 0x01FF: the addresses beside it, a command with a region it reads, and one that fails. -/
theorem witness_CommandFrame :
    exec .lcgBlock (demo []) = .next (after (exec .lcgBlock (demo []))) ∧
      (activeRegions .lcgBlock (demo [])).dst = some ⟨0x0100, 256⟩ ∧
      (Region.mk 0x0100 256).has 0x00FF = false ∧ (Region.mk 0x0100 256).has 0x0200 = false ∧
      (Region.mk 0x0010 4) ∈ (activeRegions .rotBlock (demo [])).reads ∧ (Region.mk 0x0010 4).has 0x0013 = true ∧
      exec .rotBlock (demo []) = .next (after (exec .rotBlock (demo []))) ∧
      (after (exec .rotBlock (demo []))).status.ecode ≠ 0 := by
  obtain ⟨t, ht⟩ := exec_answers_next .lcgBlock (demo [])
  exact ⟨by rw [ht, after], by decide, by decide, by decide, by decide, by decide, rfl, by decide⟩

/-- A region error and an illegal word. -/
theorem witness_ErrorCompletion :
    (let s : State := { busyDemo 5 with dstCap := 255 }
     s.seq = .busy 5 ∧ s.engineNext [] ∧ step s = .next (after (step s)) ∧ (after (step s)).seq = .idle ∧
      (after (step s)).status.ecode ≠ 0) ∧
      ((busyDemo 8).seq = .busy 8 ∧ (busyDemo 8).engineNext [] ∧ step (busyDemo 8) = .next (after (step (busyDemo 8))) ∧
        (after (step (busyDemo 8))).seq = .idle ∧ (after (step (busyDemo 8))).status.ecode ≠ 0) :=
  ⟨⟨rfl, by decide, rfl, by decide, by decide⟩, rfl, by decide, rfl, by decide, by decide⟩

theorem witness_AcceptedCommandCompletes :
    (busyDemo 0xD1).seq = .busy 0xD1 ∧ (busyDemo 0xD1).engineNext [] ∧ (busyDemo 0xD1).hung.none := by decide

/-- A host that sets OVR and then waits. -/
theorem witness_RunReachesItsEnd :
    let s := demo [wr 0x0C 0, wr 0x0C 0]
    s.collaboratorsReturn ∧ steps (s.inputs.length + 1) s = .next (after (steps 3 s)) := ⟨by decide, rfl⟩

/-- RotFwd does not return for an ENC v3; RotInv does not return for a DEC of a version-1 payload. -/
theorem witness_HangLeavesBusy :
    (let s : State := { busyDemo 0xB1 with hung := { (demo []).hung with rotFwd := true } }
     s.seq = .busy 0xB1 ∧ s.inputs = [] ∧ decode 0xB1 = .ok (.enc 3 true false) ∧ encVersion 3 true s = .ok .v3 ∧
      regionsOk s (encReads true s) (dstRegion s (Version.payloadLen .v3 s.srcLen.toNat)) = true ∧
      s.hung.blocks (Version.encodeCalls .v3) = true) ∧
      (let s : State := { payload with seq := .busy 2, srcLen := 288, hung := { (demo []).hung with rotInv := true } }
       s.seq = .busy 2 ∧ s.inputs = [] ∧ decode 2 = .ok .dec ∧ decFamily s = .ok .v1 ∧
        regionsOk s [srcRegion s] (dstRegion s (bodyLen .v1 s)) = true ∧
        (∃ out, decodePayload Config.collaborators s.ctrl.tagGen (Family.version .v1 (s.mem.readBytes 0 288))
          (s.mem.readBytes s.srcAddr.toNat s.srcLen.toNat) = .ok out) ∧
        s.hung.blocks (Family.version .v1 (s.mem.readBytes 0 288)).decodeCalls = true) :=
  ⟨by decide +kernel, rfl, rfl, by decide, by decide, by decide +kernel, ⟨_, rfl⟩, by decide⟩

/-- An unobserved ENC: a write of its last destination byte, one beside it, and one past MEM_SIZE. -/
theorem witness_HostWriteRaces :
    (let s : State := { demo [.memWrite 0x0204 [1]] with unobserved := [⟨[⟨0, 1⟩], some ⟨0x0100, 261⟩⟩] }
     s.inputs = .memWrite 0x0204 [1] :: [] ∧ 0x0204 + ([1] : List Byte).length ≤ s.platform.memSize ∧
      ∃ x ∈ s.unobserved, ∃ r, (r ∈ x.reads ∨ x.dst = some r) ∧ meet 0x0204 ([1] : List Byte).length r.base r.len) ∧
      (let s : State := { demo [.memWrite 0x0205 [1]] with unobserved := [⟨[⟨0, 1⟩], some ⟨0x0100, 261⟩⟩] }
       s.inputs = .memWrite 0x0205 [1] :: [] ∧ 0x0205 + ([1] : List Byte).length ≤ s.platform.memSize ∧
        ∀ x ∈ s.unobserved, ∀ r, (r ∈ x.reads ∨ x.dst = some r) → ¬meet 0x0205 ([1] : List Byte).length r.base r.len) ∧
      (let s : State := demo [.memWrite 0xFFFF [1, 2]]
       s.inputs = .memWrite 0xFFFF [1, 2] :: [] ∧ s.platform.memSize < 0xFFFF + ([1, 2] : List Byte).length) := by
  refine ⟨⟨rfl, by decide, _, List.mem_singleton.mpr rfl, ⟨0x0100, 261⟩, .inr rfl, by decide⟩,
    ⟨rfl, by decide, ?_⟩, rfl, by decide⟩
  intro x hx r hr
  rw [List.mem_singleton.mp hx] at hr
  rcases hr with hr | hr
  · rw [List.mem_singleton.mp hr]; decide
  · injection hr with hr; rw [← hr]; decide

/-- A command about to be accepted from a state, and then one byte written by the host. -/
def raced (w a : Nat) (s : State) : State := { s with inputs := [wr 0x0C w, .memWrite a [1]] }

/-- What the clauses of RaceAfterAcceptance share, of a command, its word, and the address written. -/
def sharedOfRace (i : Instr) (w a : Nat) (s : State) : Bool :=
  i.wf && s.seq == .idle && a < s.platform.memSize &&
    (raced w a s).inputs == [.csrWrite (s.platform.csrBase + 0x0C) 4 (encode i), .memWrite a [1]]

/-- ENC v3 and the source; ENC v3 and the last IV byte; ENC v3 and the last destination byte. -/
theorem witness_RaceAfterAcceptance_enc :
    let s := demo []
    (sharedOfRace (.enc 3 true false) 0xB1 0x0000 s = true ∧ s.srcAddr.toNat ≤ 0x0000 ∧
        0x0000 < s.srcAddr.toNat + s.srcLen.toNat) ∧
      (sharedOfRace (.enc 3 true false) 0xB1 0x0013 s = true ∧ s.ivAddr.toNat ≤ 0x0013 ∧
        0x0013 < s.ivAddr.toNat + s.ivLen.toNat) ∧
      sharedOfRace (.enc 3 true false) 0xB1 0x0204 s = true ∧ Version.ofNumber (effVer 3 s.ctrl) = some .v3 ∧
        s.dstAddr.toNat ≤ 0x0204 ∧ 0x0204 < s.dstAddr.toNat + Version.payloadLen .v3 s.srcLen.toNat := by decide

/-- DEC and its last source and destination bytes; ROT_BLOCK with a wrong IV_LEN and the last byte of its IV region and of its destination;
LCG_BLOCK and the last byte of its destination. -/
theorem witness_RaceAfterAcceptance :
    let s := demo []
    (sharedOfRace .dec 2 0x0104 payload = true ∧ payload.srcAddr.toNat ≤ 0x0104 ∧
        0x0104 < payload.srcAddr.toNat + payload.srcLen.toNat) ∧
      (sharedOfRace .dec 2 0x04FF payload = true ∧ Family.ofLength payload.srcLen.toNat = some .tagged ∧
        payload.dstAddr.toNat ≤ 0x04FF ∧
        0x04FF < payload.dstAddr.toNat + (payload.srcLen.toNat - payload.srcLen.toNat % 256)) ∧
      (sharedOfRace .rotBlock 6 0x0013 s = true ∧ s.ivAddr.toNat ≤ 0x0013 ∧ 0x0013 < s.ivAddr.toNat + s.ivLen.toNat) ∧
      (sharedOfRace .rotBlock 6 0x01FF s = true ∧ s.dstAddr.toNat ≤ 0x01FF ∧ 0x01FF < s.dstAddr.toNat + 256) ∧
      sharedOfRace .lcgBlock 5 0x01FF s = true ∧ s.dstAddr.toNat ≤ 0x01FF ∧ 0x01FF < s.dstAddr.toNat + 256 := by
  decide

theorem witness_ObservationEndsHazard :
    (demo [rd 8]).inputs = .csrRead ((demo []).platform.csrBase + 0x08) 4 :: [] ∧
      (demo [.irqSample]).inputs = .irqSample :: [] := by decide

/-- A read of the last byte of memory, with a destination just below it unobserved. -/
theorem witness_HostReads :
    let s : State := { demo [.memRead 0xFFFF 1] with unobserved := [⟨[], some ⟨0xFEFF, 256⟩⟩] }
    s.inputs = .memRead 0xFFFF 1 :: [] ∧ 0xFFFF + 1 ≤ s.platform.memSize ∧ 0 < 1 ∧
      ∀ x ∈ s.unobserved, ∀ d, x.dst = some d → d.has (0xFFFF + 0) = false := by
  refine ⟨rfl, by decide, by decide, ?_⟩
  intro x hx d hd
  rw [List.mem_singleton.mp hx] at hd
  injection hd with hd
  rw [← hd]
  decide

theorem witness_ResetSetsEveryRegister :
    (demo [.reset]).inputs = .reset :: [] ∧ (demo [.reset]).seq = .idle := by decide

/-- Reset while ENC v3 runs: the addresses beside its destination, and its source. -/
theorem witness_ResetWhileBusy :
    let s : State := { busyDemo 0xB1 with inputs := [.reset] }
    s.seq = .busy 0xB1 ∧ s.inputs = .reset :: [] ∧ (wordRegions 0xB1 s).dst = some ⟨0x0100, 261⟩ ∧
      (Region.mk 0x0100 261).has 0x00FF = false ∧ (Region.mk 0x0100 261).has 0x0205 = false ∧
      Region.mk 0x0000 1 ∈ (wordRegions 0xB1 s).reads := by decide

/-- The invariant holds of a state that is BUSY, and its step answers a next state. -/
theorem witness_StepKeepsInvariant : (busyDemo 0xB1).Inv ∧ ∃ t, step (busyDemo 0xB1) = .next t :=
  ⟨⟨by decide, by decide, by decide, by decide, by decide, by decide, by decide, by decide, by decide⟩,
    exec_answers_next (.enc 3 true false) (busyDemo 0xB1)⟩

/-- The smallest and the largest MEM_SIZE. -/
theorem witness_ResetMeetsInvariant :
    (let p : Platform := ⟨0, 1, 0⟩
     let m : Memory := [(0, 0x41)]
     1 ≤ p.memSize ∧ p.memSize ≤ 2 ^ 32 ∧ m.wf ∧ ∀ c ∈ m, c.1 < p.memSize) ∧
      (let p : Platform := ⟨0, 2 ^ 32, 0⟩
       let m : Memory := [(0, 0x41), (2 ^ 32 - 1, 0x42)]
       1 ≤ p.memSize ∧ p.memSize ≤ 2 ^ 32 ∧ m.wf ∧ ∀ c ∈ m, c.1 < p.memSize) := by decide

end Sys2Proof.Tests
end

section
/-! PROOFS. BE32 as arithmetic of its four bytes, and its inverse (R8, R44). -/

namespace Sys2Proof.Machine

/-- Concatenation puts its first operand above the second: as a number it is the first times the second's weight, plus the second. -/
theorem toNat_append_eq_mul_add {m n : Nat} (x : BitVec m) (y : BitVec n) :
    (x ++ y).toNat = x.toNat * 2 ^ n + y.toNat := by
  rw [BitVec.toNat_append, ← Nat.shiftLeft_add_eq_or_of_lt y.isLt, Nat.shiftLeft_eq]

theorem be32_four_bytes (a b c d : Byte) : be32 [a, b, c, d] = a ++ b ++ c ++ d := rfl

/-- Each byte of a 4-byte string has its big-endian weight (R8, R44). -/
theorem toNat_be32 (a b c d : Byte) :
    (be32 [a, b, c, d]).toNat = a.toNat * 2 ^ 24 + b.toNat * 2 ^ 16 + c.toNat * 2 ^ 8 + d.toNat := by
  rw [be32_four_bytes]
  calc (a ++ b ++ c ++ d).toNat
      = ((a.toNat * 2 ^ 8 + b.toNat) * 2 ^ 8 + c.toNat) * 2 ^ 8 + d.toNat := by
        simp only [toNat_append_eq_mul_add]
    _ = a.toNat * 2 ^ 24 + b.toNat * 2 ^ 16 + c.toNat * 2 ^ 8 + d.toNat := by ring

/-- A field above the second operand of a concatenation is a field of the first. -/
theorem extractLsb'_add_append {m n : Nat} (x : BitVec m) (y : BitVec n) (start len : Nat) :
    (x ++ y).extractLsb' (start + n) len = x.extractLsb' start len := by
  rw [BitVec.extractLsb'_append_eq_of_le (Nat.le_add_left n start), Nat.add_sub_cancel]

/-- Each byte is read back at its own place, 24 to 31 the first and 0 to 7 the last (R8): drop the bytes below it, then those above it. -/
@[simp] theorem be32Bytes_be32 (a b c d : Byte) : be32Bytes (be32 [a, b, c, d]) = [a, b, c, d] := by
  have first : (a ++ b ++ c ++ d).extractLsb' 24 8 = a := by
    rw [extractLsb'_add_append _ d 16, extractLsb'_add_append _ c 8, extractLsb'_add_append a b 0, BitVec.extractLsb'_eq_self]
  have second : (a ++ b ++ c ++ d).extractLsb' 16 8 = b := by
    rw [extractLsb'_add_append _ d 8, extractLsb'_add_append _ c 0, BitVec.extractLsb'_append_eq_right]
  have third : (a ++ b ++ c ++ d).extractLsb' 8 8 = c := by
    rw [extractLsb'_add_append _ d 0, BitVec.extractLsb'_append_eq_right]
  have fourth : (a ++ b ++ c ++ d).extractLsb' 0 8 = d := BitVec.extractLsb'_append_eq_right
  rw [be32_four_bytes, be32Bytes, first, second, third, fourth]

/-- Settles O40: the weight of each byte, and the bytes read back. -/
theorem seedHeaderIsBigEndian : Obligations.SeedHeaderIsBigEndian := fun a b c d =>
  ⟨toNat_be32 a b c d, be32Bytes_be32 a b c d⟩

end Sys2Proof.Machine
end

section
/-! PROOFS. The CSR block: the offset of each register, what a host write and a host read of one do (R16 to R34, R141). -/

namespace Sys2Proof.Machine

/-- The byte offset of a CSR in the window (R19). -/
def Csr.offset : Csr → Nat
  | .id => 0x00
  | .ctrl => 0x04
  | .status => 0x08
  | .cmd => 0x0C
  | .srcAddr => 0x10
  | .srcLen => 0x14
  | .dstAddr => 0x18
  | .dstCap => 0x1C
  | .dstLen => 0x20
  | .ivAddr => 0x24
  | .ivLen => 0x28
  | .arg => 0x2C
  | .lcgState => 0x30
  | .result => 0x34

@[simp] theorem Csr.ofOffset_offset (r : Csr) : Csr.ofOffset r.offset = some r := by cases r <;> rfl

/-- Each CSR stands at its own offset and nowhere else (R19). -/
theorem Csr.ofOffset_eq_some_iff (off : Nat) (r : Csr) : Csr.ofOffset off = some r ↔ off = r.offset := by
  constructor
  · intro h
    unfold Csr.ofOffset at h
    split at h <;> cases h <;> rfl
  · rintro rfl
    exact r.ofOffset_offset

theorem Csr.offset_lt (r : Csr) : r.offset < 0x38 := by cases r <;> decide

/-- The offsets from 0x38 on are reserved (R19). -/
theorem Csr.ofOffset_eq_none (off : Nat) (h : 0x38 ≤ off) : Csr.ofOffset off = none := by
  rw [Option.eq_none_iff_forall_ne_some]
  intro r hr
  have := (Csr.ofOffset_eq_some_iff off r).mp hr
  have := r.offset_lt
  omega

@[simp] theorem writeOffset_offset (r : Csr) (v : Word) (s : State) : writeOffset r.offset v s = writeCsr r v s := by
  simp [writeOffset]

@[simp] theorem csrReadValue_offset (s : State) (r : Csr) : csrReadValue s r.offset = csrValue s r := by
  simp [csrReadValue]

/-- A write to a reserved offset is ignored (R20). -/
theorem writeOffset_reserved (off : Nat) (v : Word) (s : State) (h : 0x38 ≤ off) : writeOffset off v s = s := by
  simp [writeOffset, Csr.ofOffset_eq_none off h]

/-- A reserved offset reads 0 (R20). -/
theorem csrReadValue_reserved (s : State) (off : Nat) (h : 0x38 ≤ off) : csrReadValue s off = 0 := by
  simp [csrReadValue, Csr.ofOffset_eq_none off h]

/-- Only a read of STATUS can be an observation of completion (R141). -/
theorem seesDone_eq_false (off : Nat) (s : State) (h : off ≠ 0x08) : seesDone off s = false := by
  have hne : Csr.ofOffset off ≠ some .status := fun hs => h ((Csr.ofOffset_eq_some_iff off .status).mp hs)
  simp [seesDone, hne]

/-- An observation changes the record of unobserved commands alone (R141). -/
theorem observeIf_eq (b : Bool) (s : State) :
    observeIf b s = { s with unobserved := if b then [] else s.unobserved } := by
  cases b <;> rfl

theorem writeWhenIdle_idle (s written : State) (h : s.seq = .idle) : writeWhenIdle s written = written := by
  simp [writeWhenIdle, h]

theorem writeWhenIdle_busy (s written : State) (w : Word) (h : s.seq = .busy w) : writeWhenIdle s written = s := by
  simp [writeWhenIdle, h]

/-- A CMD write in IDLE is accepted (R16). -/
theorem writeCmd_idle (w : Word) (s : State) (h : s.seq = .idle) : writeCmd w s = accept w s := by
  simp [writeCmd, h]

/-- A CMD write in BUSY sets OVR (R17). -/
theorem writeCmd_busy (v w : Word) (s : State) (h : s.seq = .busy w) :
    writeCmd v s = { s with status := { s.status with ovr := true } } := by
  simp [writeCmd, h]

/-- In IDLE or in BUSY, `writeWhenIdle` answers one of its two states (R18). -/
theorem writeWhenIdle_eq_or (s written : State) : writeWhenIdle s written = written ∨ writeWhenIdle s written = s := by
  cases h : s.seq with
  | idle => exact .inl (writeWhenIdle_idle s written h)
  | busy w => exact .inr (writeWhenIdle_busy s written w h)

/-- While BUSY a host write to a CSR changes STATUS and nothing else (R17, R18, R23). -/
theorem writeCsr_busy (r : Csr) (v w : Word) (s : State) (h : s.seq = .busy w) :
    writeCsr r v s = { s with status := (writeCsr r v s).status } := by
  cases r with
  | id | status | dstLen | lcgState | result => rfl
  | cmd => rw [writeCsr, writeCmd_busy v w s h]
  | ctrl | srcAddr | srcLen | dstAddr | dstCap | ivAddr | ivLen | arg => rw [writeCsr, writeWhenIdle_busy _ _ w h]

theorem writeOffset_busy (off : Nat) (v w : Word) (s : State) (h : s.seq = .busy w) :
    writeOffset off v s = { s with status := (writeOffset off v s).status } := by
  unfold writeOffset
  cases Csr.ofOffset off with
  | none => rfl
  | some r => exact writeCsr_busy r v w s h

end Sys2Proof.Machine
end

section
/-! PROOFS. What a host's or the platform's move leaves, when it answers a next state (R12, R16, R20, R50, R136). -/

namespace Sys2Proof.Machine

/-- A step with a move to take is that move (log 1). -/
theorem step_cons (s : State) (x : Input) (rest : List Input) (hi : s.inputs = x :: rest) :
    step s = move x { s with inputs := rest } := by
  simp [step, nextMove, hi]

/-- A CSR write that is not refused is the write at some offset (R20). -/
theorem hostCsrWrite_next (addr : Word) (size : Nat) (v : Word) (s t : State) (h : hostCsrWrite addr size v s = .next t) :
    ∃ off, t = writeOffset off v s := by
  unfold hostCsrWrite at h
  split at h
  · cases h
  · cases h; exact ⟨_, rfl⟩

/-- A CSR read changes what the host has seen, and what it has observed (R20, R141). -/
theorem hostCsrRead_next (addr : Word) (size : Nat) (s t : State) (h : hostCsrRead addr size s = .next t) :
    t = { s with host := t.host, unobserved := t.unobserved } := by
  unfold hostCsrRead at h
  split at h
  · cases h
  · cases h; rw [observeIf_eq]

theorem hostIrqSample_eq (s : State) :
    hostIrqSample s =
      { s with
        host := { s.host with irqLevel := irq s }
        unobserved := if irq s then [] else s.unobserved } := by
  rw [hostIrqSample, observeIf_eq]

/-- A memory write that is carried out writes bytes at addresses that exist (R40). -/
theorem hostMemWrite_next (a : Nat) (bs : List Byte) (s t : State) (h : hostMemWrite a bs s = .next t) :
    a + bs.length ≤ s.platform.memSize ∧ t = { s with mem := s.mem.writeBytes a bs } := by
  rcases hostMemWrite_cases a bs s with ⟨hin, -, hw⟩ | ⟨-, -, hw⟩ | ⟨-, hw⟩ <;> rw [hw] at h <;> cases h
  exact ⟨hin, rfl⟩

/-- A memory read changes what the host has seen, and takes free bytes (R50). -/
theorem hostMemRead_next (a n : Nat) (s t : State) (h : hostMemRead a n s = .next t) :
    t = { s with host := t.host, draws := t.draws } := by
  unfold hostMemRead at h
  split at h <;> cases h
  rfl

/-- While BUSY no move but the engine's and a reset changes the running command, an operand register or a result (R17, R18). -/
theorem move_busy_frame (x : Input) (w : Word) (s t : State) (hs : s.seq = .busy w) (he : x ≠ .engine) (hr : x ≠ .reset)
    (h : move x s = .next t) :
    t = { s with
      status := t.status
      mem := t.mem
      hung := t.hung
      unobserved := t.unobserved
      host := t.host
      draws := t.draws } := by
  cases x with
  | csrWrite addr size v =>
    obtain ⟨off, rfl⟩ := hostCsrWrite_next addr size v s t h
    rw [writeOffset_busy off v w s hs]
  | csrRead addr size => rw [hostCsrRead_next addr size s t h]
  | memWrite a bs => rw [(hostMemWrite_next a bs s t h).2]
  | memRead a n => rw [hostMemRead_next a n s t h]
  | irqSample => cases h; rw [hostIrqSample_eq]
  | engine => exact absurd rfl he
  | hang p => cases h; rfl
  | reset => exact absurd rfl hr

end Sys2Proof.Machine
end

section
/-! PROOFS. What a command's completion leaves, and that a command whose collaborators return completes (R16, R82, R117, R122). -/

namespace Sys2Proof.Machine

theorem ErrorCode.code_toNat_le (e : ErrorCode) : e.code.toNat ≤ 7 := by cases e <;> decide

theorem Version.number_toNat_le (v : Version) : v.number.toNat ≤ 5 := by cases v <;> decide

/-- When every collaborator returns, no completion is stuck (R82). -/
theorem Hung.blocks_eq_false (h : Hung) (hn : h.none) (calls : List Primitive) : h.blocks calls = false := by
  obtain ⟨h1, h2, h3, h4, h5⟩ := hn
  rw [Hung.blocks, List.any_eq_false]
  intro p _
  cases p <;> simp [Hung.has, h1, h2, h3, h4, h5]

/-- `t` is `s` after the completion of a command: IDLE, STATUS with a code and a version that R117 and R122 allow, the moves to come and the
platform as they were, and at most one string of bytes written, at addresses that exist. -/
structure Completes (s t : State) : Prop where
  /-- The sequencer is IDLE (R16). -/
  seq : t.seq = .idle
  /-- The moves to come stay. -/
  inputs : t.inputs = s.inputs
  /-- The platform stays (R6). -/
  platform : t.platform = s.platform
  /-- One write inside MEM_SIZE, or none (R42, R43). -/
  mem : t.mem = s.mem ∨ ∃ a bs, a + bs.length ≤ s.platform.memSize ∧ t.mem = s.mem.writeBytes a bs
  /-- STATUS takes a code and a version; an error has no version (R16, R117, R122). -/
  status : ∃ code dver, t.status = completeStatus code dver s.status ∧
    code.toNat ≤ 7 ∧ dver.toNat ≤ 5 ∧ (code ≠ 0 → dver = 0)

theorem abort_completes (e : ErrorCode) (s : State) : Completes s (abort e s) :=
  ⟨rfl, rfl, rfl, .inl rfl, e.code, 0, rfl, e.code_toNat_le, by decide, fun _ => rfl⟩

theorem completeIllegal_completes (s : State) : Completes s (completeIllegal s) :=
  ⟨rfl, rfl, rfl, .inl rfl, 6, 0, rfl, by decide, by decide, fun _ => rfl⟩

/-- A completion with code 0 that writes no memory, whatever it does to LCG_STATE and RESULT (R73 to R75, R100). -/
theorem complete_completes (s : State) (x : Word) (r : Byte) :
    Completes s (complete { s with lcgState := x, result := r }) :=
  ⟨rfl, rfl, rfl, .inl rfl, 0, 0, rfl, by decide, by decide, fun _ => rfl⟩

/-- A completion with code 0 that stores an output its region checks passed for, whatever it does to LCG_STATE and the draw counter
(R42, R76, R77, R103, R111). -/
theorem storeOutput_completes (s : State) (reads : List Region) (out : List Byte) (n len d : Nat) (x : Word) (dver : BitVec 3)
    (hok : regionsOk s reads (dstRegion s n) = true) (hlen : out.length = n) (hd : dver.toNat ≤ 5) :
    Completes s (completeWith 0 dver (storeOutput out len { s with lcgState := x, draws := d })) := by
  obtain ⟨-, hin, -, -⟩ := (regionsOk_iff s reads (dstRegion s n)).mp hok
  exact ⟨rfl, rfl, rfl, .inr ⟨s.dstAddr.toNat, out, hlen ▸ hin, rfl⟩, 0, dver, rfl, by decide, hd, fun h => absurd rfl h⟩

theorem execLcgBlock_completes (s : State) : ∃ t, execLcgBlock s = .next t ∧ Completes s t := by
  rcases execLcgBlock_cases s with ⟨hok, h⟩ | ⟨-, h⟩
  · exact ⟨_, h, storeOutput_completes s [] _ 256 256 s.draws _ 0 hok (lcgBlock_length _) (by decide)⟩
  · exact ⟨_, h, abort_completes _ s⟩

theorem execRotBlock_completes (s : State) : ∃ t, execRotBlock s = .next t ∧ Completes s t := by
  rcases execRotBlock_cases s with ⟨-, hok, h⟩ | ⟨-, -, h⟩ | ⟨-, h⟩
  · exact ⟨_, h, storeOutput_completes s _ _ 256 256 s.draws s.lcgState 0 hok (by simp) (by decide)⟩
  · exact ⟨_, h, abort_completes _ s⟩
  · exact ⟨_, h, abort_completes _ s⟩

/-- ENC completes, or a call of it does not return and the state stays (R82, R103). -/
theorem encWith_completes (c : Config.Collaborators) (ver : Nat) (ivs useB : Bool) (s : State) :
    ∃ t, encWith c ver ivs useB s = .next t ∧ (Completes s t ∨ t = s ∧ ¬s.hung.none) := by
  rcases encWith_cases c ver ivs useB s with ⟨e, -, h⟩ | ⟨v, -, ⟨-, h⟩ | ⟨hok, ⟨hb, h⟩ | ⟨-, h⟩⟩⟩
  · exact ⟨_, h, .inl (abort_completes e s)⟩
  · exact ⟨_, h, .inl (abort_completes _ s)⟩
  · exact ⟨s, h, .inr ⟨rfl, fun hn => by simp [s.hung.blocks_eq_false hn] at hb⟩⟩
  · rw [encHeader_draws] at h
    exact ⟨_, h, .inl (storeOutput_completes s _ _ _ _ _ s.lcgState _ hok
      ((encodePayload_length c _ v _ _ useB _ (by simp)).trans (by simp)) v.number_toNat_le)⟩

/-- DEC completes, or a call of it does not return and the state stays (R82, R111). -/
theorem decWith_completes (c : Config.Collaborators) (s : State) :
    ∃ t, decWith c s = .next t ∧ (Completes s t ∨ t = s ∧ ¬s.hung.none) := by
  rcases decWith_cases c s with
    ⟨e, -, h⟩ | ⟨fam, hf, ⟨-, h⟩ | ⟨hok, ⟨e, -, h⟩ | ⟨out, hd, ⟨hb, h⟩ | ⟨-, h⟩⟩⟩⟩
  · exact ⟨_, h, .inl (abort_completes e s)⟩
  · exact ⟨_, h, .inl (abort_completes _ s)⟩
  · exact ⟨_, h, .inl (abort_completes e s)⟩
  · exact ⟨s, h, .inr ⟨rfl, fun hn => by simp [s.hung.blocks_eq_false hn] at hb⟩⟩
  · exact ⟨_, h, .inl (storeOutput_completes s _ out _ _ s.draws s.lcgState _ hok
      (decodePayload_length c _ s fam hf _ out (by simp) hd) (Version.number_toNat_le _))⟩

/-- A command completes, or a collaborator it calls does not return and the state stays (R16, R82). -/
theorem exec_completes (i : Instr) (s : State) : ∃ t, exec i s = .next t ∧ (Completes s t ∨ t = s ∧ ¬s.hung.none) := by
  cases i with
  | nop => exact ⟨_, rfl, .inl (complete_completes s s.lcgState s.result)⟩
  | lcgSeed => exact ⟨_, rfl, .inl (complete_completes s s.arg s.result)⟩
  | lcgNext => exact ⟨_, rfl, .inl (complete_completes s _ _)⟩
  | lcgTag useB => exact ⟨_, rfl, .inl (complete_completes s _ _)⟩
  | lcgBlock =>
    obtain ⟨t, h, ht⟩ := execLcgBlock_completes s
    exact ⟨t, h, .inl ht⟩
  | rotBlock =>
    obtain ⟨t, h, ht⟩ := execRotBlock_completes s
    exact ⟨t, h, .inl ht⟩
  | enc ver ivs useB => exact encWith_completes Config.collaborators ver ivs useB s
  | dec => exact decWith_completes Config.collaborators s

theorem engineTurn_idle (s : State) (h : s.seq = .idle) : engineTurn s = .next s := by
  simp [engineTurn, h]

/-- The turn of a BUSY engine on a legal word is the command's meaning (R16). -/
theorem engineTurn_busy (s : State) (w : Word) (i : Instr) (h : s.seq = .busy w) (hd : decode w = .ok i) :
    engineTurn s = exec i s := by
  simp [engineTurn, h, hd]

/-- The turn of a BUSY engine is a completion, or leaves the state where a collaborator does not return (R16, R60, R82). -/
theorem engineTurn_completes (s : State) (w : Word) (h : s.seq = .busy w) :
    ∃ t, engineTurn s = .next t ∧ (Completes s t ∨ t = s ∧ ¬s.hung.none) := by
  rcases engineTurn_cases s with ⟨hi, -⟩ | ⟨w, i, -, -, he⟩ | ⟨w, e, -, -, he⟩
  · simp [hi] at h
  · rw [he]
    exact exec_completes i s
  · exact ⟨_, he, .inl (completeIllegal_completes s)⟩

/-- Settles O43: the engine's turn is a completion, since no call it makes is one that hangs. -/
theorem acceptedCommandCompletes : Obligations.AcceptedCommandCompletes := by
  intro s w rest hs hnext hnone
  obtain ⟨t, ht, hc | ⟨-, hstuck⟩⟩ := engineTurn_completes { s with inputs := rest } w hs
  · obtain ⟨code, dver, hstatus, hcode, -, -⟩ := hc.status
    refine ⟨t, (step_of_engineNext s rest hnext).trans ht, hc.seq, hc.inputs, ?_⟩
    simp [hstatus, hcode]
  · exact absurd hnone hstuck

end Sys2Proof.Machine
end

section
/-! PROOFS. Every step keeps the invariant of memory and STATUS (R16, R23, R40, R117, R122). -/

namespace Sys2Proof.Machine

/-- The invariant speaks of the memory, the platform, the sequencer and STATUS alone. -/
theorem State.Inv.of_eq {s t : State} (hs : s.Inv) (hm : t.mem = s.mem) (hp : t.platform = s.platform)
    (hq : t.seq = s.seq) (hst : t.status = s.status) : t.Inv := by
  obtain ⟨h1, h2, h3, h4, h5, h6, h7, h8, h9⟩ := hs
  constructor <;> simp only [hm, hp, hq, hst] <;> assumption

/-- Bytes written at addresses that exist keep the invariant (R40, R41). -/
theorem State.Inv.writeBytes {s : State} (hs : s.Inv) (a : Nat) (bs : List Byte)
    (hin : a + bs.length ≤ s.platform.memSize) : State.Inv { s with mem := s.mem.writeBytes a bs } := by
  refine { hs with memWf := Memory.writeBytes_wf bs s.mem a hs.memWf, memInside := fun c hc => ?_ }
  rcases Memory.mem_writeBytes bs s.mem a c hc with hnew | hold
  · exact hnew.2.trans_le hin
  · exact hs.memInside c hold

/-- A write to STATUS only clears DONE and OVR (R23). -/
theorem State.Inv.clearStatus {s : State} (hs : s.Inv) (v : Word) :
    State.Inv { s with status := Machine.clearStatus v s.status } :=
  { hs with
    busyStatus := fun hb => by
      obtain ⟨hd, he, hc, hv⟩ := hs.busyStatus hb
      simp [hd, he, hc, hv] }

theorem State.Inv.setOvr {s : State} (hs : s.Inv) : State.Inv { s with status := { s.status with ovr := true } } :=
  { hs with }

/-- Acceptance clears what the invariant speaks of (R16). -/
theorem State.Inv.accept {s : State} (hs : s.Inv) (w : Word) : (Machine.accept w s).Inv :=
  { hs with
    busyStatus := fun _ => ⟨rfl, rfl, rfl, rfl⟩
    errIsCode := by simp
    codeRange := by simp
    versionRange := by simp
    errNoVersion := by simp }

theorem State.Inv.writeCmd {s : State} (hs : s.Inv) (v : Word) : (Machine.writeCmd v s).Inv := by
  cases hq : s.seq with
  | idle => rw [writeCmd_idle v s hq]; exact hs.accept v
  | busy w => rw [writeCmd_busy v w s hq]; exact hs.setOvr

/-- A host write to a CSR keeps the invariant: only CMD and STATUS touch what it speaks of. -/
theorem State.Inv.writeCsr {s : State} (hs : s.Inv) (r : Csr) (v : Word) : (Machine.writeCsr r v s).Inv := by
  cases r with
  | id | dstLen | lcgState | result => exact hs
  | status => exact hs.clearStatus v
  | cmd => exact hs.writeCmd v
  | ctrl | srcAddr | srcLen | dstAddr | dstCap | ivAddr | ivLen | arg =>
    rcases writeWhenIdle_eq_or s _ with h | h <;> rw [Machine.writeCsr, h] <;> exact hs.of_eq rfl rfl rfl rfl

theorem State.Inv.writeOffset {s : State} (hs : s.Inv) (off : Nat) (v : Word) : (Machine.writeOffset off v s).Inv := by
  unfold Machine.writeOffset
  cases Csr.ofOffset off with
  | none => exact hs
  | some r => exact hs.writeCsr r v

/-- A completion keeps the invariant: its write is inside MEM_SIZE, and an error has no version (R117, R122). -/
theorem State.Inv.completes {s t : State} (hs : s.Inv) (h : Completes s t) : t.Inv := by
  obtain ⟨code, dver, hst, hcode, hdver, hnone⟩ := h.status
  have hmem : t.mem.wf ∧ ∀ c ∈ t.mem, c.1 < s.platform.memSize := by
    rcases h.mem with hm | ⟨a, bs, hin, hm⟩ <;> rw [hm]
    · exact ⟨hs.memWf, hs.memInside⟩
    · exact ⟨(hs.writeBytes a bs hin).memWf, (hs.writeBytes a bs hin).memInside⟩
  exact
    { memWf := hmem.1
      memInside := h.platform ▸ hmem.2
      memSizePos := h.platform ▸ hs.memSizePos
      memSizeMax := h.platform ▸ hs.memSizeMax
      busyStatus := by simp [h.seq]
      errIsCode := by simp [hst]
      codeRange := by simpa [hst] using hcode
      versionRange := by simpa [hst] using hdver
      errNoVersion := by simpa [hst] using hnone }

theorem State.Inv.engineTurn {s t : State} (hs : s.Inv) (h : Machine.engineTurn s = .next t) : t.Inv := by
  cases hq : s.seq with
  | idle =>
    rw [engineTurn_idle s hq] at h
    cases h
    exact hs
  | busy w =>
    obtain ⟨u, hu, hc⟩ := engineTurn_completes s w hq
    rw [hu] at h
    cases h
    rcases hc with hc | ⟨rfl, -⟩
    · exact hs.completes hc
    · exact hs

/-- What a reset frees lies inside MEM_SIZE (R40, R137). -/
theorem memAfterReset_inside (s : State) (h : ∀ c ∈ s.mem, c.1 < s.platform.memSize) :
    ∀ c ∈ memAfterReset s, c.1 < s.platform.memSize := by
  unfold memAfterReset
  split
  · exact h
  · split
    · exact h
    · exact freeRegion_inside _ _ _ _ _ _ h

theorem State.Inv.resetEngine {s : State} (hs : s.Inv) : (Machine.resetEngine s).Inv where
  memWf := memAfterReset_wf s hs.memWf
  memInside := memAfterReset_inside s hs.memInside
  memSizePos := hs.memSizePos
  memSizeMax := hs.memSizeMax
  busyStatus := by simp [State.reset]
  errIsCode := rfl
  codeRange := by simp [State.reset]
  versionRange := by simp [State.reset]
  errNoVersion := by simp [State.reset]

/-- Every move keeps the invariant. -/
theorem State.Inv.move {s t : State} (hs : s.Inv) (x : Input) (h : Machine.move x s = .next t) : t.Inv := by
  cases x with
  | csrWrite addr size v =>
    obtain ⟨off, rfl⟩ := hostCsrWrite_next addr size v s t h
    exact hs.writeOffset off v
  | csrRead addr size =>
    rw [hostCsrRead_next addr size s t h]
    exact hs.of_eq rfl rfl rfl rfl
  | memWrite a bs =>
    obtain ⟨hin, rfl⟩ := hostMemWrite_next a bs s t h
    exact hs.writeBytes a bs hin
  | memRead a n =>
    rw [hostMemRead_next a n s t h]
    exact hs.of_eq rfl rfl rfl rfl
  | irqSample =>
    cases h
    rw [hostIrqSample_eq]
    exact hs.of_eq rfl rfl rfl rfl
  | engine => exact hs.engineTurn h
  | hang p =>
    cases h
    exact hs.of_eq rfl rfl rfl rfl
  | reset =>
    cases h
    exact hs.resetEngine

/-- Settles O53: a step is the engine's turn or one move, and each keeps the invariant. -/
theorem stepKeepsInvariant : Obligations.StepKeepsInvariant := by
  intro s t hs h
  rcases step_cases s with ⟨-, hstep⟩ | ⟨x, rest, -, hstep⟩
  · exact hs.engineTurn (hstep ▸ h)
  · have hrest : State.Inv { s with inputs := rest } := hs.of_eq rfl rfl rfl rfl
    exact hrest.move x (hstep ▸ h)

end Sys2Proof.Machine
end

section
/-! PROOFS. The layout of the STATUS and CTRL words, and what their reserved bits do (R20, R22, R23). -/

namespace Sys2Proof.Machine

theorem flagBit_eq_toNat (b : Bool) : flagBit b = b.toNat := by cases b <;> rfl

/-- A bit of a word, as arithmetic. -/
theorem flagBit_getLsbD (v : Word) (i : Nat) : flagBit (v.getLsbD i) = v.toNat / 2 ^ i % 2 := by
  rw [flagBit_eq_toNat, ← BitVec.testBit_toNat, Nat.toNat_testBit]

/-- The STATUS word as a sum of its fields at their weights (R23). -/
theorem toNat_statusWord (s : State) :
    (statusWord s).toNat =
      flagBit s.seq.isBusy + 2 * flagBit s.status.done + 4 * flagBit s.status.err + 8 * flagBit s.status.ovr
        + 16 * s.status.ecode.toNat + 256 * s.status.dver.toNat := by
  simp only [statusWord, toNat_append_eq_mul_add, BitVec.toNat_ofBool, ← flagBit_eq_toNat, BitVec.toNat_ofNat]
  ring

theorem toNat_statusWord_lt (s : State) : (statusWord s).toNat < 2 ^ 11 := by
  have hflag (b : Bool) : flagBit b ≤ 1 := by cases b <;> decide
  have := hflag s.seq.isBusy
  have := hflag s.status.done
  have := hflag s.status.err
  have := hflag s.status.ovr
  have := s.status.ecode.isLt
  have := s.status.dver.isLt
  rw [toNat_statusWord]
  omega

@[simp] theorem statusWord_done (s : State) : (statusWord s).getLsbD 1 = s.status.done := by
  simp only [statusWord, BitVec.getLsbD_append]
  simp

@[simp] theorem ctrlWord_ie (c : Ctrl) : (ctrlWord c).getLsbD 0 = c.ie := by
  simp only [ctrlWord, BitVec.getLsbD_append]
  simp

@[simp] theorem ctrlWord_tagGen (c : Ctrl) : (ctrlWord c).getLsbD 1 = c.tagGen := by
  simp only [ctrlWord, BitVec.getLsbD_append]
  simp

/-- DEFVER is CTRL[6:4] (R22). -/
@[simp] theorem ctrlWord_defVer (c : Ctrl) : (ctrlWord c).extractLsb' 4 3 = c.defVer := by
  apply BitVec.eq_of_getLsbD_eq
  intro i hi
  simp only [ctrlWord, BitVec.getLsbD_append, BitVec.getLsbD_extractLsb']
  interval_cases i <;> simp

/-- W1C on the word: a STATUS write clears the bits 1 and 3 that it holds (R23). -/
theorem statusWord_clearStatus (s : State) (v : Word) :
    statusWord { s with status := clearStatus v s.status } = statusWord s &&& ~~~(v &&& 0x0000000A#32) := by
  apply BitVec.eq_of_getLsbD_eq
  intro i hi
  simp only [statusWord, BitVec.getLsbD_append, BitVec.getLsbD_and, BitVec.getLsbD_not]
  interval_cases i <;> simp

/-- A CTRL write stores bits 0, 1 and 6:4 of the word; the register reads back with the others 0 (R22). -/
theorem ctrlWord_ctrlOfWord (v : Word) : ctrlWord (ctrlOfWord v) = v &&& 0x00000073#32 := by
  apply BitVec.eq_of_getLsbD_eq
  intro i hi
  simp only [ctrlWord, ctrlOfWord, BitVec.getLsbD_append, BitVec.getLsbD_and]
  interval_cases i <;> simp

/-- Every value of CTRL is stored by a write of its word (R22). -/
theorem ctrlOfWord_ctrlWord (c : Ctrl) : ctrlOfWord (ctrlWord c) = c := by
  rw [ctrlOfWord, ctrlWord_ie, ctrlWord_tagGen, ctrlWord_defVer]

/-- The reserved bits of CTRL read 0 (R20, R22). -/
theorem ctrlWord_reserved (c : Ctrl) : ctrlWord c &&& 0xFFFFFF8C#32 = 0 := by
  rw [← ctrlOfWord_ctrlWord c, ctrlWord_ctrlOfWord, BitVec.and_assoc]
  exact BitVec.and_zero

/-- A word below `2 ^ k` has no bit at `k` or above. -/
theorem and_shiftLeft_allOnes_eq_zero (x : Word) (k : Nat) (h : x.toNat < 2 ^ k) : x &&& BitVec.allOnes 32 <<< k = 0 := by
  apply BitVec.eq_of_getLsbD_eq
  intro i _
  by_cases hk : i < k
  · simp [hk]
  · have hx : x.getLsbD i = false := by
      rw [← BitVec.testBit_toNat]
      exact Nat.testBit_lt_two_pow (h.trans_le (Nat.pow_le_pow_right (by decide) (by omega)))
    simp [hx]

/-- The reserved bits of STATUS read 0 (R20, R23). -/
theorem statusWord_reserved (s : State) : statusWord s &&& 0xFFFFF800#32 = 0 :=
  and_shiftLeft_allOnes_eq_zero _ 11 (toNat_statusWord_lt s)

/-- RESULT[31:8] read 0 (R34). -/
theorem result_reserved (b : Byte) : b.setWidth 32 &&& 0xFFFFFF00#32 = 0 :=
  and_shiftLeft_allOnes_eq_zero _ 8 (by rw [BitVec.toNat_setWidth]; omega)

/-- Writes to the reserved bits of CTRL are ignored (R20, R22). -/
theorem ctrlOfWord_mask (v : Word) : ctrlOfWord (v &&& 0x00000073#32) = ctrlOfWord v := by
  rw [← ctrlWord_ctrlOfWord, ctrlOfWord_ctrlWord]

/-- Writes to all but bits 1 and 3 of STATUS are ignored (R20, R23). -/
theorem clearStatus_mask (v : Word) (st : Status) : clearStatus (v &&& 0x0000000A#32) st = clearStatus v st := by
  simp [clearStatus]

/-- Settles O15: the fields at their weights. -/
theorem statusWordLayout : Obligations.StatusWordLayout :=
  toNat_statusWord

end Sys2Proof.Machine
end

section
/-! PROOFS. The rules of the CSR block as steps of the machine (R16 to R34, R36, R39). -/

namespace Sys2Proof.Machine

theorem Csr.offset_mod_four (r : Csr) : r.offset % 4 = 0 := by cases r <;> rfl

/-- The step of a host write to a CSR, by the register (R20). -/
theorem step_csrWrite_offset (s : State) (r : Csr) (v : Word) (rest : List Input)
    (hi : s.inputs = .csrWrite (s.platform.csrBase + BitVec.ofNat 32 r.offset) 4 v :: rest) :
    step s = .next (writeCsr r v { s with inputs := rest }) := by
  have := r.offset_lt
  rw [step_csrWrite s r.offset v rest (by omega) r.offset_mod_four hi, writeOffset_offset]

/-- The operand registers that are stored whole (R25 to R28, R30 to R32). -/
def Csr.operands : List Csr := [.srcAddr, .srcLen, .dstAddr, .dstCap, .ivAddr, .ivLen, .arg]

/-- Registers other than `r` that read the same make every other offset read the same. -/
theorem csrReadValue_congr_of_ne (s t : State) (r : Csr) (h : ∀ q, q ≠ r → csrValue t q = csrValue s q) (x : Nat)
    (hx : x ≠ r.offset) : csrReadValue t x = csrReadValue s x := by
  unfold csrReadValue
  cases hq : Csr.ofOffset x with
  | none => rfl
  | some q =>
    refine h q fun hqr => hx ?_
    rw [← hqr]
    exact (Csr.ofOffset_eq_some_iff x q).mp hq

/-- A write in IDLE to an operand register is read back whole (R25 to R32). -/
theorem csrValue_writeCsr_operand (r : Csr) (hr : r ∈ Csr.operands) (v : Word) (s : State) (hs : s.seq = .idle) :
    csrValue (writeCsr r v s) r = v := by
  fin_cases hr <;> rw [writeCsr, writeWhenIdle_idle _ _ hs] <;> rfl

/-- A write in IDLE to an operand register changes no other register (R25 to R32). -/
theorem csrValue_writeCsr_operand_ne (r : Csr) (hr : r ∈ Csr.operands) (v : Word) (s : State) (hs : s.seq = .idle) (q : Csr)
    (hq : q ≠ r) : csrValue (writeCsr r v s) q = csrValue s q := by
  fin_cases hr
  all_goals
    rw [writeCsr, writeWhenIdle_idle _ _ hs]
    cases q <;> simp at hq <;> rfl

/-- A write to an operand register changes nothing that is no register (R25 to R32). -/
theorem writeCsr_operand_frame (r : Csr) (hr : r ∈ Csr.operands) (v : Word) (s : State) :
    (writeCsr r v s).seq = s.seq ∧ (writeCsr r v s).mem = s.mem ∧ (writeCsr r v s).inputs = s.inputs ∧
      (writeCsr r v s).unobserved = s.unobserved := by
  fin_cases hr
  all_goals
    rw [writeCsr]
    rcases writeWhenIdle_eq_or s _ with h | h <;> rw [h] <;> simp

/-- A write to CTRL or to an operand register while BUSY is carried out as nothing (R18). -/
theorem writeCsr_operand_busy (r : Csr) (hr : r ∈ .ctrl :: Csr.operands) (v w : Word) (s : State) (hs : s.seq = .busy w) :
    writeCsr r v s = s := by
  fin_cases hr <;> exact writeWhenIdle_busy s _ w hs

/-- Settles O10: while BUSY a move of the host changes STATUS alone of the registers, and no operand register. -/
theorem operandsFrozenWhileBusy : Obligations.OperandsFrozenWhileBusy := by
  intro s w rest hs
  refine ⟨fun t x hi he hr h => ?_, fun off v hoff hi => ?_, fun v hi => step_csrWrite_offset s .status v rest hi⟩
  · have hmove : move x { s with inputs := rest } = .next t := (step_cons s x rest hi).symm.trans h
    rw [move_busy_frame x w { s with inputs := rest } t hs he hr hmove]
    simp [hs]
  · obtain ⟨r, hr, rfl⟩ : ∃ r ∈ .ctrl :: Csr.operands, r.offset = off := List.mem_map.mp hoff
    rw [step_csrWrite_offset s r v rest hi, writeCsr_operand_busy r hr v w { s with inputs := rest } hs]

/-- Settles O11: each access form by its step, each reserved bit by the layout of its register. -/
theorem csrAccessRules : Obligations.CsrAccessRules := by
  intro s off size v rest hoff
  refine ⟨fun ha hi => ?read, fun h => ?readsZero, fun ha h hi => ?ignored, ?reservedBits, fun hf => ?refused⟩
  case read =>
    refine ⟨_, step_csrRead s off rest hoff ha hi, ?_⟩
    rw [observeIf_eq]
    refine ⟨rfl, rfl, fun hne => ?_⟩
    simp [seesDone_eq_false off s hne]
  case readsZero =>
    rcases h with rfl | h
    · rfl
    · exact csrReadValue_reserved s off h
  case ignored =>
    rw [step_csrWrite s off v rest hoff ha hi]
    rcases h with h | h
    · fin_cases h <;> rfl
    · rw [writeOffset_reserved off v _ h]
  case reservedBits =>
    refine ⟨ctrlWord_reserved s.ctrl, statusWord_reserved s, result_reserved s.result, ?_, ?_⟩
    · change writeCsr .ctrl v s = writeCsr .ctrl _ s
      rw [writeCsr, writeCsr, ctrlOfWord_mask]
    · change writeCsr .status v s = writeCsr .status _ s
      rw [writeCsr, writeCsr, clearStatus_mask]
  case refused =>
    have hoffset := csrOffset_refuses s.platform.csrBase off size hoff hf
    constructor <;> intro hi <;> rw [step_cons s _ rest hi]
    · simp [move, hostCsrRead, hoffset]
    · simp [move, hostCsrWrite, hoffset]

/-- Settles O14: the map is `csrValue` at each offset, and an operand register is the one that a write to it changes. -/
theorem operandRegistersReadBack : Obligations.OperandRegistersReadBack := by
  refine ⟨fun s => ⟨rfl, rfl, rfl, rfl, rfl, rfl, rfl, rfl, rfl, rfl, rfl, rfl, rfl, rfl, csrReadValue_reserved s⟩, ?_⟩
  intro s off v rest hoff hs hi
  obtain ⟨r, hr, rfl⟩ : ∃ r ∈ Csr.operands, r.offset = off := List.mem_map.mp hoff
  obtain ⟨hseq, hmem, hinputs, hunobserved⟩ := writeCsr_operand_frame r hr v { s with inputs := rest }
  refine ⟨_, step_csrWrite_offset s r v rest hi, ?_, fun x hx => ?_, hseq.trans hs, hmem, hinputs, hunobserved⟩
  · rw [csrReadValue_offset, csrValue_writeCsr_operand r hr v { s with inputs := rest } hs]
  · exact csrReadValue_congr_of_ne { s with inputs := rest } _ r
      (csrValue_writeCsr_operand_ne r hr v { s with inputs := rest } hs) x hx

/-- Settles O8: the step is `accept`. -/
theorem cmdWriteIsAccepted : Obligations.CmdWriteIsAccepted := by
  intro s w rest hs hi
  rw [step_csrWrite_offset s .cmd w rest hi, writeCsr, writeCmd_idle w { s with inputs := rest } hs]
  simp [accept, acceptStatus]

/-- Settles O9: the step sets OVR. -/
theorem cmdWriteWhileBusySetsOvr : Obligations.CmdWriteWhileBusySetsOvr := by
  intro s w v rest hs hi
  rw [step_csrWrite_offset s .cmd v rest hi, writeCsr, writeCmd_busy v w { s with inputs := rest } hs]

/-- Settles O12: offset 0 reads a constant, and a write there is ignored. -/
theorem idIsConstant : Obligations.IdIsConstant := by
  intro s v rest
  refine ⟨fun hi => ?_, fun hi => step_csrWrite_offset s .id v rest (by simpa [Csr.offset] using hi), rfl⟩
  refine ⟨_, step_csrRead s 0 rest (by decide) rfl (by simpa using hi), ?_⟩
  rw [observeIf_eq]
  have hid : idValue.toNat / 2 ^ 16 = 0x5043 ∧ idValue.toNat % 2 ^ 16 = 0x0005 := by decide
  exact hid

/-- Settles O13: the fields that `ctrlOfWord` stores. -/
theorem ctrlReadWrite : Obligations.CtrlReadWrite := by
  intro s v rest hs hi
  refine ⟨_, step_csrWrite_offset s .ctrl v rest hi, ?_⟩
  rw [writeCsr, writeWhenIdle_idle { s with inputs := rest } _ hs]
  refine ⟨rfl, ?_, flagBit_getLsbD v 1, ?_, ctrlWord_ctrlOfWord v⟩
  · simpa [ctrlOfWord] using flagBit_getLsbD v 0
  · simp [ctrlOfWord, Nat.shiftRight_eq_div_pow]

/-- Settles O55: the step is `clearStatus`, in every state of the sequencer. -/
theorem statusWriteClears : Obligations.StatusWriteClears := fun s v rest hi =>
  ⟨_, step_csrWrite_offset s .status v rest hi, rfl, rfl, rfl, rfl, rfl, rfl,
    statusWord_clearStatus { s with inputs := rest } v⟩

/-- Settles O16: DONE is bit 1 of STATUS and IE bit 0 of CTRL. -/
theorem interruptIsDoneAndEnable : Obligations.InterruptIsDoneAndEnable := by
  intro s rest hi
  have hstatus : csrReadValue s 0x08 = statusWord s := csrReadValue_offset s .status
  have hctrl : csrReadValue s 0x04 = ctrlWord s.ctrl := csrReadValue_offset s .ctrl
  refine ⟨_, step_cons s .irqSample rest hi, ?_⟩
  rw [hostIrqSample_eq, hstatus, hctrl, statusWord_done, ctrlWord_ie]
  exact ⟨rfl, rfl⟩

/-- Every CSR reads 0 after power-on reset, but ID (R39). -/
theorem csrValue_reset (r : Csr) : csrValue State.reset r = if r = .id then idValue else 0 := by
  cases r <;> rfl

/-- Settles O52: by the registers of the map. -/
theorem resetValues : Obligations.ResetValues := by
  refine ⟨rfl, rfl, fun off => ?_⟩
  split
  case isTrue h => rw [h]; rfl
  case isFalse h =>
    unfold csrReadValue
    cases hr : Csr.ofOffset off with
    | none => rfl
    | some r =>
      have hid : r ≠ .id := by
        rintro rfl
        exact h ((Csr.ofOffset_eq_some_iff off .id).mp hr)
      simp [csrValue_reset, hid]

end Sys2Proof.Machine
end

section
/-! PROOFS. The engine's turn as the meaning of the word it holds (R16, R58). -/

namespace Sys2Proof.Machine

/-- The word of a well-formed command decodes to it (R56, R62). -/
theorem decode_encode (i : Instr) (h : i.wf = true) : decode (encode i) = .ok i := by
  cases i with
  | nop | dec | lcgSeed | lcgNext | lcgBlock | rotBlock => decide
  | lcgTag tagb => cases tagb <;> decide
  | enc ver ivs tagb =>
    have hver : ver < 8 := by simpa [Instr.wf] using h
    interval_cases ver <;> cases ivs <;> cases tagb <;> decide

/-- When the engine moves next, a BUSY engine runs the command its word stands for (R16). -/
theorem step_busy (s : State) (w : Word) (i : Instr) (rest : List Input) (hs : s.seq = .busy w) (hd : decode w = .ok i)
    (hnext : s.engineNext rest) : step s = exec i { s with inputs := rest } :=
  (step_of_engineNext s rest hnext).trans (engineTurn_busy { s with inputs := rest } w i hs hd)

/-- Settles O6: `withFetchWord` is a state whose engine moves next. -/
theorem stepRunsDecodedCommand : Obligations.StepRunsDecodedCommand := by
  refine ⟨step_busy, fun s i hi => ?_⟩
  have hword : s.withFetchWord 32 (encode i).toNat = latchWord (encode i) s := by simp [State.withFetchWord]
  rw [hword]
  exact step_busy (latchWord (encode i) s) (encode i) i s.inputs rfl (decode_encode i hi) (engineNext_engineFirst s)

end Sys2Proof.Machine
end


section
/-! PROOFS. ENC and DEC by their outcomes, each under what leads to it, and that LCG_STATE plays no part (R33, R103, R106, R111, R114). -/

namespace Sys2Proof.Machine

section Enc
variable (c : Config.Collaborators) (ver : Nat) (ivs useB : Bool) (s : State) (v : Version)

/-- ENC whose checks before the regions fail (R103). -/
theorem encWith_error (e : ErrorCode) (hv : encVersion ver ivs s = .error e) :
    encWith c ver ivs useB s = .next (abort e s) := by
  simp [encWith, hv]

/-- ENC whose regions fail (R103). -/
theorem encWith_regionFault (hv : encVersion ver ivs s = .ok v)
    (hok : regionsOk s (encReads ivs s) (dstRegion s (v.payloadLen s.srcLen.toNat)) = false) :
    encWith c ver ivs useB s = .next (abort .regionFault s) := by
  simp [encWith, hv, hok]

/-- ENC that calls a collaborator that does not return (R82). -/
theorem encWith_stuck (hv : encVersion ver ivs s = .ok v)
    (hok : regionsOk s (encReads ivs s) (dstRegion s (v.payloadLen s.srcLen.toNat)) = true)
    (hb : s.hung.blocks v.encodeCalls = true) : encWith c ver ivs useB s = .next s := by
  simp [encWith, hv, hok, hb]

/-- ENC that succeeds (R103, R104). -/
theorem encWith_done (hv : encVersion ver ivs s = .ok v)
    (hok : regionsOk s (encReads ivs s) (dstRegion s (v.payloadLen s.srcLen.toNat)) = true)
    (hb : s.hung.blocks v.encodeCalls = false) :
    encWith c ver ivs useB s =
      .next (completeVersion v
        (storeOutput
          (encodePayload c s.platform.v2Trailer v (s.mem.readBytes s.srcAddr.toNat s.srcLen.toNat)
            (encHeader ivs v.headerLen s).1 useB s.ctrl.tagGen)
          (v.payloadLen s.srcLen.toNat) (encHeader ivs v.headerLen s).2)) := by
  simp [encWith, hv, hok, hb]

end Enc

section Dec
variable (c : Config.Collaborators) (s : State) (fam : Family)

/-- DEC whose length is no payload's (R109, R110). -/
theorem decWith_error (e : ErrorCode) (hf : decFamily s = .error e) : decWith c s = .next (abort e s) := by
  simp [decWith, hf]

/-- DEC whose regions fail (R111). -/
theorem decWith_regionFault (hf : decFamily s = .ok fam)
    (hok : regionsOk s [srcRegion s] (dstRegion s (bodyLen fam s)) = false) :
    decWith c s = .next (abort .regionFault s) := by
  simp [decWith, hf, hok]

variable (p : List Byte) (hp : p = s.mem.readBytes s.srcAddr.toNat s.srcLen.toNat)
include hp

/-- DEC whose trailer check fails (R98, R114). -/
theorem decWith_decodeError (e : ErrorCode) (hf : decFamily s = .ok fam)
    (hok : regionsOk s [srcRegion s] (dstRegion s (bodyLen fam s)) = true)
    (hd : decodePayload c s.ctrl.tagGen (fam.version p) p = .error e) : decWith c s = .next (abort e s) := by
  simp [decWith, hf, hok, ← hp, hd]

/-- DEC that calls a collaborator that does not return (R82). -/
theorem decWith_stuck (out : List Byte) (hf : decFamily s = .ok fam)
    (hok : regionsOk s [srcRegion s] (dstRegion s (bodyLen fam s)) = true)
    (hd : decodePayload c s.ctrl.tagGen (fam.version p) p = .ok out)
    (hb : s.hung.blocks (fam.version p).decodeCalls = true) : decWith c s = .next s := by
  simp [decWith, hf, hok, ← hp, hd, hb]

/-- DEC that succeeds (R111). -/
theorem decWith_done (out : List Byte) (hf : decFamily s = .ok fam)
    (hok : regionsOk s [srcRegion s] (dstRegion s (bodyLen fam s)) = true)
    (hd : decodePayload c s.ctrl.tagGen (fam.version p) p = .ok out)
    (hb : s.hung.blocks (fam.version p).decodeCalls = false) :
    decWith c s =
      .next (completeVersion (fam.version p) (storeOutput out (bodyLen fam s - (padByte out).toNat) s)) := by
  simp [decWith, hf, hok, ← hp, hd, hb]

end Dec

/-- ENC answers the same under any LCG_STATE, and keeps it (R33, R106). -/
theorem encWith_lcgState (c : Config.Collaborators) (ver : Nat) (ivs useB : Bool) (s : State) (x : Word) :
    ∃ t, encWith c ver ivs useB s = .next t ∧ t.lcgState = s.lcgState ∧
      encWith c ver ivs useB { s with lcgState := x } = .next { t with lcgState := x } := by
  rcases encWith_cases c ver ivs useB s with ⟨e, hv, h⟩ | ⟨v, hv, ⟨hok, h⟩ | ⟨hok, ⟨hb, h⟩ | ⟨hb, h⟩⟩⟩
  · exact ⟨_, h, rfl, encWith_error c ver ivs useB { s with lcgState := x } e hv⟩
  · exact ⟨_, h, rfl, encWith_regionFault c ver ivs useB { s with lcgState := x } v hv hok⟩
  · exact ⟨_, h, rfl, encWith_stuck c ver ivs useB { s with lcgState := x } v hv hok hb⟩
  · rw [encHeader_draws] at h
    refine ⟨_, h, rfl, ?_⟩
    rw [encWith_done c ver ivs useB { s with lcgState := x } v hv hok hb, encHeader_draws]
    cases ivs <;> rfl

/-- DEC answers the same under any LCG_STATE, and keeps it (R33, R114). -/
theorem decWith_lcgState (c : Config.Collaborators) (s : State) (x : Word) :
    ∃ t, decWith c s = .next t ∧ t.lcgState = s.lcgState ∧
      decWith c { s with lcgState := x } = .next { t with lcgState := x } := by
  rcases decWith_cases c s with
    ⟨e, hf, h⟩ | ⟨fam, hf, ⟨hok, h⟩ | ⟨hok, ⟨e, hd, h⟩ | ⟨out, hd, ⟨hb, h⟩ | ⟨hb, h⟩⟩⟩⟩
  · exact ⟨_, h, rfl, decWith_error c { s with lcgState := x } e hf⟩
  · exact ⟨_, h, rfl, decWith_regionFault c { s with lcgState := x } fam hf hok⟩
  · exact ⟨_, h, rfl, decWith_decodeError c { s with lcgState := x } fam _ rfl e hf hok hd⟩
  · exact ⟨_, h, rfl, decWith_stuck c { s with lcgState := x } fam _ rfl out hf hok hd hb⟩
  · exact ⟨_, h, rfl, decWith_done c { s with lcgState := x } fam _ rfl out hf hok hd hb⟩

/-- Settles O32: each outcome of ENC and of DEC is reached, and is left, without LCG_STATE. -/
theorem codecIgnoresLcgState : Obligations.CodecIgnoresLcgState := by
  intro s x i hi
  rcases hi with rfl | ⟨ver, ivs, tagb, rfl⟩
  · exact decWith_lcgState Config.collaborators s x
  · exact encWith_lcgState Config.collaborators ver ivs tagb s x

end Sys2Proof.Machine
end

section
/-! PROOFS. The host's accesses to the buffer memory as steps of the machine, and the race with an accepted command (R40, R50, R140). -/

namespace Sys2Proof.Machine

/-- The step of a host write of bytes: its addresses are tested first, HostRace after (R40, R50). -/
theorem step_memWrite (s : State) (a : Nat) (bs : List Byte) (rest : List Input) (hi : s.inputs = .memWrite a bs :: rest) :
    step s =
      if a + bs.length ≤ s.platform.memSize then
        if touchesActive ⟨a, bs.length⟩ s then .fault .hostRace
        else .next { s with inputs := rest, mem := s.mem.writeBytes a bs }
      else .fault .hostBadAddress := by
  rw [step_cons s _ rest hi]
  simp only [move, hostMemWrite, Region.inBounds, decide_eq_true_eq]
  rfl

/-- Settles O46: `touchesActive` is that the write meets a region of the record. -/
theorem hostWriteRaces : Obligations.HostWriteRaces := by
  intro s a bs rest hi
  rw [step_memWrite s a bs rest hi]
  refine ⟨fun hin hmeet => ?race, fun hin happart => ?done, fun hout => if_neg (by omega)⟩
  case race => rw [if_pos hin, if_pos ((touchesActive_iff ⟨a, bs.length⟩ s).mpr hmeet)]
  case done =>
    have hfree : ¬touchesActive ⟨a, bs.length⟩ s = true := fun ht => by
      obtain ⟨x, hx, r, hr, hmeet⟩ := (touchesActive_iff ⟨a, bs.length⟩ s).mp ht
      exact happart x hx r hr hmeet
    rw [if_pos hin, if_neg hfree]

/-- The bytes a host read returns are the memory's outside the unobserved destinations (R50, R140). -/
theorem hostBytes_getElem? (s : State) (k a n j : Nat) (hj : j < n) (h : inUnobservedDst s (a + j) = false) :
    (hostBytes s k a n)[j]? = some (s.mem.read (a + j)) := by
  induction n generalizing k a j with
  | zero => omega
  | succ n ih =>
    cases j with
    | zero =>
      rw [Nat.add_zero] at h ⊢
      simp [hostBytes, h]
    | succ j =>
      have hshift : a + (j + 1) = a + 1 + j := by omega
      rw [hshift] at h ⊢
      rw [hostBytes, List.getElem?_cons_succ, ih (k + 1) (a + 1) j (by omega) h]

/-- The step of a host read of bytes at addresses that exist (R40, R50). -/
theorem step_memRead (s : State) (a n : Nat) (rest : List Input) (hi : s.inputs = .memRead a n :: rest)
    (hin : a + n ≤ s.platform.memSize) :
    step s = .next { takeDraws n s with
      inputs := rest
      host := { s.host with memData := hostBytes { s with inputs := rest } s.draws a n } } := by
  rw [step_cons s _ rest hi]
  simp [move, hostMemRead, Region.inBounds, hin, takeDraws]

/-- Settles O49: a byte of no unobserved destination is the memory's. -/
theorem hostReads : Obligations.HostReads := by
  intro s a n rest hi hin
  refine ⟨_, step_memRead s a n rest hi hin, rfl, rfl, rfl, hostBytes_length _ _ a n, fun k hk hfree => ?_⟩
  refine hostBytes_getElem? { s with inputs := rest } _ a n k hk (Bool.eq_false_iff.mpr fun hdst => ?_)
  obtain ⟨x, hx, d, hd, hhas⟩ := (inUnobservedDst_iff _ _).mp hdst
  simp [hfree x hx d hd] at hhas

/-- A family is selected by the length of its header and trailer, so the body is the whole blocks of the length (R109, R111). -/
theorem bodyLen_eq_sub_mod (fam : Family) (s : State) (h : Family.ofLength s.srcLen.toNat = some fam) :
    bodyLen fam s = s.srcLen.toNat - s.srcLen.toNat % 256 := by
  have hmod : s.srcLen.toNat % 256 = fam.headerLen + fam.trailerLen := by
    unfold Family.ofLength at h
    split_ifs at h with h1 h2 h3 <;> cases h <;> assumption
  rw [bodyLen, hmod, Nat.sub_sub]

/-- The word of a well-formed command has the command's active regions (R50). -/
theorem wordRegions_encode (i : Instr) (s : State) (h : i.wf = true) : wordRegions (encode i) s = activeRegions i s := by
  simp [wordRegions, decode_encode i h]

/-- The step of a CMD write in IDLE is acceptance (R16). -/
theorem step_cmdWrite_idle (s : State) (w : Word) (rest : List Input) (hs : s.seq = .idle)
    (hi : s.inputs = .csrWrite (s.platform.csrBase + 0x0C) 4 w :: rest) :
    step s = .next (accept w { s with inputs := rest }) := by
  rw [step_csrWrite_offset s .cmd w rest hi, writeCsr, writeCmd_idle w { s with inputs := rest } hs]

/-- After a CMD write in IDLE a host write of one byte of the word's regions is HostRace (R16, R50, R140). -/
theorem steps_accept_then_race (s : State) (w : Word) (a : Nat) (b : Byte) (rest : List Input) (r : Region)
    (hs : s.seq = .idle) (ha : a < s.platform.memSize)
    (hi : s.inputs = .csrWrite (s.platform.csrBase + 0x0C) 4 w :: .memWrite a [b] :: rest)
    (hr : r ∈ (wordRegions w s).reads ∨ (wordRegions w s).dst = some r) (hlo : r.base ≤ a) (hhi : a < r.base + r.len) :
    steps 2 s = .fault .hostRace := by
  have hmeet : meet a 1 r.base r.len := ⟨by omega, by omega, hhi, by omega⟩
  have hrace : step (accept w { s with inputs := .memWrite a [b] :: rest }) = .fault .hostRace :=
    (hostWriteRaces _ a [b] rest rfl).1 ha ⟨wordRegions w s, by simp, r, hr, hmeet⟩
  rw [steps_succ 1 s _ (step_cmdWrite_idle s w _ hs hi), steps, hrace]

/-- Settles O47: each clause names one of the command's active regions. -/
theorem raceAfterAcceptance : Obligations.RaceAfterAcceptance := by
  intro s i a b rest hwf hs ha hi
  have race (r : Region) (hr : r ∈ (activeRegions i s).reads ∨ (activeRegions i s).dst = some r) :
      r.base ≤ a → a < r.base + r.len → steps 2 s = .fault .hostRace :=
    steps_accept_then_race s (encode i) a b rest r hs ha hi (by rwa [wordRegions_encode i s hwf])
  refine ⟨?source, ?suppliedIv, ?encDst, ?decDst, ?rotIv, ?blockDst⟩
  case source =>
    rintro (rfl | ⟨ver, ivs, tagb, rfl⟩)
    · exact race (srcRegion s) (.inl (by simp [activeRegions]))
    · exact race (srcRegion s) (.inl (by cases ivs <;> simp [activeRegions, encReads]))
  case suppliedIv =>
    rintro ver tagb rfl
    exact race (ivRegion s) (.inl (by simp [activeRegions, encReads]))
  case encDst =>
    rintro ver ivs tagb v rfl hv
    exact race (dstRegion s (v.payloadLen s.srcLen.toNat)) (.inr (by simp [activeRegions, hv]))
  case decDst =>
    rintro fam rfl hfam
    rw [← bodyLen_eq_sub_mod fam s hfam]
    exact race (dstRegion s (bodyLen fam s)) (.inr (by simp [activeRegions, hfam]))
  case rotIv =>
    rintro rfl
    exact race (ivRegion s) (.inl (by simp [activeRegions]))
  case blockDst =>
    rintro (rfl | rfl) <;> exact race (dstRegion s 256) (.inr rfl)

end Sys2Proof.Machine
end

section
/-! PROOFS. What each command leaves unchanged (R29, R33, R34, R43, R123). -/

namespace Sys2Proof.Machine

/-- What `t` keeps of `s` when it is a command's answer: the registers the command's rule does not name, and every byte outside the one
write its destination takes when the command succeeds. -/
structure Framed (i : Instr) (s t : State) : Prop where
  /-- No command changes an operand register, CTRL, the platform, the hazard record, the host's view or the moves to come (R43). -/
  kept : t = { s with
    seq := t.seq
    status := t.status
    mem := t.mem
    lcgState := t.lcgState
    result := t.result
    dstLen := t.dstLen
    draws := t.draws }
  /-- OVR keeps its value (R16). -/
  ovr : t.status.ovr = s.status.ovr
  /-- The memory stays, or a successful command fills its destination, which overlaps no region it reads (R42, R43, R123). -/
  mem : t.mem = s.mem ∨ t.status.ecode = 0 ∧ ∃ d out, (activeRegions i s).dst = some d ∧ out.length = d.len ∧
    (∀ r ∈ (activeRegions i s).reads, d.overlaps r = false) ∧ t.mem = s.mem.writeBytes d.base out
  /-- LCG_STATE (R33). -/
  lcgState : i ∉ [.lcgSeed, .lcgNext, .lcgBlock, .lcgTag false, .lcgTag true] → t.lcgState = s.lcgState
  /-- RESULT (R34). -/
  result : i ∉ [.lcgNext, .lcgTag false, .lcgTag true] → t.result = s.result
  /-- DST_LEN (R29). -/
  dstLen : i ∈ [.nop, .lcgSeed, .lcgNext, .lcgTag false, .lcgTag true] → t.dstLen = s.dstLen
  /-- Only an ENC that draws its header takes free bytes (R104). -/
  draws : (∀ ver tagb, i ≠ .enc ver false tagb) → t.draws = s.draws

/-- MemWrite to a whole region leaves every byte outside it (R41). -/
theorem Memory.read_writeBytes_of_not_has (m : Memory) (d : Region) (out : List Byte) (hlen : out.length = d.len) (a : Nat)
    (ha : d.has a = false) : (m.writeBytes d.base out).read a = m.read a := by
  rw [Memory.read_writeBytes, hlen, if_neg fun hin => ?_]
  simp [(has_iff d a).mpr hin] at ha

/-- A byte outside the destination reads as before (R43). -/
theorem Framed.read_outside {i : Instr} {s t : State} (h : Framed i s t) (a : Nat)
    (ha : ∀ d, (activeRegions i s).dst = some d → d.has a = false) : t.mem.read a = s.mem.read a := by
  rcases h.mem with hm | ⟨-, d, out, hd, hlen, -, hm⟩
  · rw [hm]
  · rw [hm, Memory.read_writeBytes_of_not_has s.mem d out hlen a (ha d hd)]

/-- A byte of a region the command reads reads as before: the destination overlaps no such region where it is written (R42, R43). -/
theorem Framed.read_reads {i : Instr} {s t : State} (h : Framed i s t) (r : Region) (hr : r ∈ (activeRegions i s).reads)
    (a : Nat) (ha : r.has a = true) : t.mem.read a = s.mem.read a := by
  rcases h.mem with hm | ⟨-, d, out, -, hlen, hapart, hm⟩
  · rw [hm]
  · rw [hm, Memory.read_writeBytes_of_not_has s.mem d out hlen a (has_of_not_overlaps d r a (hapart r hr) ha)]

/-- An error completion writes no memory (R123). -/
theorem Framed.mem_of_error {i : Instr} {s t : State} (h : Framed i s t) (he : t.status.ecode ≠ 0) : t.mem = s.mem :=
  h.mem.resolve_right fun hok => he hok.1

theorem framed_refl (i : Instr) (s : State) : Framed i s s :=
  ⟨rfl, rfl, .inl rfl, fun _ => rfl, fun _ => rfl, fun _ => rfl, fun _ => rfl⟩

/-- An error completion of ENC, DEC, LCG_BLOCK or ROT_BLOCK (R123). -/
theorem abort_framed (i : Instr) (e : ErrorCode) (s : State)
    (hi : i ∉ [.nop, .lcgSeed, .lcgNext, .lcgTag false, .lcgTag true]) : Framed i s (abort e s) :=
  ⟨rfl, rfl, .inl rfl, fun _ => rfl, fun _ => rfl, fun h => absurd h hi, fun _ => rfl⟩

/-- A completion that stores nothing (R73 to R75, R100). -/
theorem complete_framed (i : Instr) (s : State) (x : Word) (b : Byte)
    (hx : i ∉ [.lcgSeed, .lcgNext, .lcgBlock, .lcgTag false, .lcgTag true] → x = s.lcgState)
    (hb : i ∉ [.lcgNext, .lcgTag false, .lcgTag true] → b = s.result) :
    Framed i s (complete { s with lcgState := x, result := b }) :=
  ⟨rfl, rfl, .inl rfl, hx, hb, fun _ => rfl, fun _ => rfl⟩

/-- A completion that stores an output of `n` bytes, its region checks passed (R42, R76, R77, R103, R111). -/
theorem storeOutput_framed (i : Instr) (s : State) (out : List Byte) (n len k : Nat) (x : Word) (dver : BitVec 3)
    (hi : i ∉ [.nop, .lcgSeed, .lcgNext, .lcgTag false, .lcgTag true])
    (hdst : (activeRegions i s).dst = some (dstRegion s n)) (hlen : out.length = n)
    (hok : regionsOk s (activeRegions i s).reads (dstRegion s n) = true)
    (hx : i ∉ [.lcgSeed, .lcgNext, .lcgBlock, .lcgTag false, .lcgTag true] → x = s.lcgState)
    (hk : (∀ ver tagb, i ≠ .enc ver false tagb) → k = s.draws) :
    Framed i s (completeWith 0 dver (storeOutput out len { s with lcgState := x, draws := k })) := by
  obtain ⟨-, -, -, hapart⟩ := (regionsOk_iff s (activeRegions i s).reads (dstRegion s n)).mp hok
  exact ⟨rfl, rfl, .inr ⟨rfl, dstRegion s n, out, hdst, hlen, hapart, rfl⟩, hx, fun _ => rfl, fun h => absurd h hi, hk⟩

/-- ENC whose first checks pass has a wire version (R102, R103). -/
theorem encVersion_ok (ver : Nat) (ivs : Bool) (s : State) (v : Version) (h : encVersion ver ivs s = .ok v) :
    Version.ofNumber (effVer ver s.ctrl) = some v := by
  unfold encVersion at h
  split at h
  · cases h
  · next hv =>
    split_ifs at h
    cases h
    exact hv

theorem execEnc_framed (ver : Nat) (ivs tagb : Bool) (s : State) :
    ∃ t, exec (.enc ver ivs tagb) s = .next t ∧ Framed (.enc ver ivs tagb) s t := by
  rcases encWith_cases Config.collaborators ver ivs tagb s with ⟨e, -, h⟩ | ⟨v, hv, ⟨-, h⟩ | ⟨hok, ⟨-, h⟩ | ⟨-, h⟩⟩⟩
  · exact ⟨_, h, abort_framed _ e s (by simp)⟩
  · exact ⟨_, h, abort_framed _ _ s (by simp)⟩
  · exact ⟨s, h, framed_refl _ s⟩
  · rw [encHeader_draws] at h
    have hdst := encVersion_ok ver ivs s v hv
    refine ⟨_, h, storeOutput_framed _ s _ _ _ _ s.lcgState v.number (by simp) (by simp [activeRegions, hdst])
      ((encodePayload_length _ _ v _ _ tagb _ (by simp)).trans (by simp)) hok (fun _ => rfl) fun hne => ?_⟩
    cases ivs with
    | true => rfl
    | false => exact absurd rfl (hne ver tagb)

theorem execDec_framed (s : State) : ∃ t, exec .dec s = .next t ∧ Framed .dec s t := by
  rcases decWith_cases Config.collaborators s with
    ⟨e, -, h⟩ | ⟨fam, hf, ⟨-, h⟩ | ⟨hok, ⟨e, -, h⟩ | ⟨out, hd, ⟨-, h⟩ | ⟨-, h⟩⟩⟩⟩
  · exact ⟨_, h, abort_framed _ e s (by simp)⟩
  · exact ⟨_, h, abort_framed _ _ s (by simp)⟩
  · exact ⟨_, h, abort_framed _ e s (by simp)⟩
  · exact ⟨s, h, framed_refl _ s⟩
  · obtain ⟨-, -, hfam⟩ := decFamily_ok s fam hf
    exact ⟨_, h, storeOutput_framed _ s out _ _ s.draws s.lcgState _ (by simp) (by simp [activeRegions, hfam])
      (decodePayload_length _ _ s fam hf _ out (by simp) hd) hok (fun _ => rfl) fun _ => rfl⟩

theorem execLcgBlock_framed (s : State) : ∃ t, exec .lcgBlock s = .next t ∧ Framed .lcgBlock s t := by
  rcases execLcgBlock_cases s with ⟨hok, h⟩ | ⟨-, h⟩
  · exact ⟨_, h, storeOutput_framed _ s _ 256 256 s.draws _ 0 (by simp) rfl (lcgBlock_length _) hok (by simp) fun _ => rfl⟩
  · exact ⟨_, h, abort_framed _ _ s (by simp)⟩

theorem execRotBlock_framed (s : State) : ∃ t, exec .rotBlock s = .next t ∧ Framed .rotBlock s t := by
  rcases execRotBlock_cases s with ⟨-, hok, h⟩ | ⟨-, -, h⟩ | ⟨-, h⟩
  · exact ⟨_, h, storeOutput_framed _ s _ 256 256 s.draws s.lcgState 0 (by simp) rfl (by simp) hok (fun _ => rfl) fun _ => rfl⟩
  · exact ⟨_, h, abort_framed _ _ s (by simp)⟩
  · exact ⟨_, h, abort_framed _ _ s (by simp)⟩

/-- Every command's answer keeps what its rule does not name. -/
theorem exec_framed (i : Instr) (s : State) : ∃ t, exec i s = .next t ∧ Framed i s t := by
  cases i with
  | nop => exact ⟨_, rfl, complete_framed .nop s s.lcgState s.result (fun _ => rfl) fun _ => rfl⟩
  | lcgSeed => exact ⟨_, rfl, complete_framed .lcgSeed s s.arg s.result (by simp) fun _ => rfl⟩
  | lcgNext => exact ⟨_, rfl, complete_framed .lcgNext s _ _ (by simp) (by simp)⟩
  | lcgTag tagb =>
    exact ⟨_, rfl, complete_framed (.lcgTag tagb) s _ _ (by cases tagb <;> simp) (by cases tagb <;> simp)⟩
  | lcgBlock => exact execLcgBlock_framed s
  | rotBlock => exact execRotBlock_framed s
  | enc ver ivs tagb => exact execEnc_framed ver ivs tagb s
  | dec => exact execDec_framed s

/-- Settles O41: the command's answer is framed, and the frame gives each clause. -/
theorem commandFrame : Obligations.CommandFrame := by
  intro i s t h
  obtain ⟨u, hu, hframe⟩ := exec_framed i s
  obtain rfl : u = t := Host.Outcome.next.inj (hu.symm.trans h)
  refine ⟨?_, hframe.read_outside, hframe.read_reads, hframe.mem_of_error, hframe.lcgState, hframe.result, hframe.dstLen,
    hframe.draws⟩
  rw [hframe.kept]
  exact ⟨rfl, rfl, rfl, rfl, rfl, rfl, rfl, rfl, rfl, hframe.ovr, rfl, rfl, rfl, rfl⟩

end Sys2Proof.Machine
end

section
/-! PROOFS. Decoding by the fields of a word: the fields as arithmetic, what decodes to each command, the rows of the opcode
table, and illegal words (R56 to R60, R62). -/

namespace Sys2Proof

/-- OP of a command (R58). -/
def Instr.opcode : Instr → Nat
  | .nop => 0
  | .enc _ _ _ => 1
  | .dec => 2
  | .lcgSeed => 3
  | .lcgNext => 4
  | .lcgBlock => 5
  | .rotBlock => 6
  | .lcgTag _ => 7

/-- VER of a command, 0 where the command does not use it (R59). -/
def Instr.verValue : Instr → Nat
  | .enc ver _ _ => ver
  | _ => 0

/-- IVS of a command, 0 where the command does not use it (R59). -/
def Instr.ivsFlag : Instr → Bool
  | .enc _ ivs _ => ivs
  | _ => false

/-- TAGB of a command, 0 where the command does not use it (R59). -/
def Instr.tagbFlag : Instr → Bool
  | .enc _ _ tagb | .lcgTag tagb => tagb
  | _ => false

/-- The fields of a word are those of a command, its reserved bits 0 (R56, R58, R59). -/
def HasFields (w : Word) (i : Instr) : Prop :=
  reservedField w = 0 ∧ opField w = i.opcode ∧ verField w = i.verValue ∧ ivsField w = i.ivsFlag ∧ tagbField w = i.tagbFlag

theorem encode_eq_encodeFields (i : Instr) : encode i = encodeFields i.opcode i.verValue i.ivsFlag i.tagbFlag := by
  cases i <;> rfl

theorem opField_eq (w : Word) : opField w = w.toNat % 2 ^ 4 := by
  rw [opField, BitVec.extractLsb'_toNat, Nat.shiftRight_zero]

theorem verField_eq (w : Word) : verField w = w.toNat / 2 ^ 4 % 2 ^ 3 := by
  rw [verField, BitVec.extractLsb'_toNat, Nat.shiftRight_eq_div_pow]

theorem reservedField_eq (w : Word) : reservedField w = w.toNat / 2 ^ 9 := by
  have := w.isLt
  rw [reservedField, BitVec.extractLsb'_toNat, Nat.shiftRight_eq_div_pow]
  omega

theorem flagBit_ivsField (w : Word) : flagBit (ivsField w) = w.toNat / 2 ^ 7 % 2 := Machine.flagBit_getLsbD w 7

theorem flagBit_tagbField (w : Word) : flagBit (tagbField w) = w.toNat / 2 ^ 8 % 2 := Machine.flagBit_getLsbD w 8

theorem verField_lt (w : Word) : verField w < 8 := BitVec.isLt _

/-- A command that uses no field decodes where the fields are 0 (R59). -/
theorem plainCommand_eq_ok_iff (w : Word) (i j : Instr) :
    plainCommand w j = .ok i ↔ (verField w = 0 ∧ ivsField w = false ∧ tagbField w = false) ∧ j = i := by
  unfold plainCommand
  split <;> simp [*]

/-- A word decodes to a command exactly where it has the command's fields (R58, R59). -/
theorem decode_eq_ok_iff (w : Word) (i : Instr) : decode w = .ok i ↔ HasFields w i := by
  unfold decode HasFields
  by_cases hres : reservedField w = 0
  case neg => simp [hres]
  rw [if_pos hres]
  split
  case h_2 hop => cases i <;> simp [Instr.opcode, Instr.verValue, Instr.ivsFlag, Instr.tagbFlag, hres, hop]
  case h_8 hop =>
    by_cases hunused : verField w = 0 ∧ ivsField w = false
    · cases i <;> simp [Instr.opcode, Instr.verValue, Instr.ivsFlag, Instr.tagbFlag, hres, hop, hunused]
    · cases i <;> simp [Instr.opcode, Instr.verValue, Instr.ivsFlag, Instr.tagbFlag, hop, ← and_assoc, hunused]
  case h_9 =>
    have hop : opField w ≠ i.opcode := by cases i <;> assumption
    simp [hop]
  case h_1 hop | h_3 hop | h_4 hop | h_5 hop | h_6 hop | h_7 hop =>
    cases i <;> simp [Instr.opcode, Instr.verValue, Instr.ivsFlag, Instr.tagbFlag, plainCommand_eq_ok_iff, hres, hop]

/-- A word whose reserved bits are 0 is put together from its fields (R56). -/
theorem encodeFields_of_reserved (w : Word) (h : reservedField w = 0) :
    encodeFields (opField w) (verField w) (ivsField w) (tagbField w) = w := by
  have hhigh (i : Nat) (hi : i < 32) (h9 : 9 ≤ i) : w[i] = false := by
    have hlt : w.toNat < 2 ^ 9 := by rw [reservedField_eq] at h; omega
    rw [← BitVec.getLsbD_eq_getElem, ← BitVec.testBit_toNat]
    exact Nat.testBit_lt_two_pow (hlt.trans_le (Nat.pow_le_pow_right (by decide) h9))
  have hflag (b : Bool) : BitVec.ofNat 32 (flagBit b) = (BitVec.ofBool b).setWidth 32 := by cases b <;> rfl
  apply BitVec.eq_of_getLsbD_eq
  intro i hi
  simp only [encodeFields, opField, verField, ivsField, tagbField, BitVec.ofNat_toNat, hflag]
  interval_cases i <;> simp [hhigh]

/-- A command whose fields a word has is well formed, and the word is the command's (R56, R62). -/
theorem HasFields.wf_and_encode {w : Word} {i : Instr} (h : HasFields w i) : i.wf = true ∧ encode i = w := by
  obtain ⟨hres, hop, hver, hivs, htagb⟩ := h
  constructor
  · cases i with
    | enc ver ivs tagb => exact decide_eq_true (hver.symm.trans_lt (verField_lt w))
    | nop | dec | lcgSeed | lcgNext | lcgBlock | rotBlock | lcgTag _ => rfl
  · rw [encode_eq_encodeFields, ← hop, ← hver, ← hivs, ← htagb, encodeFields_of_reserved w hres]

/-- Settles O1: `decode_encode`, which goes through every value of the fields. -/
theorem decodeEncodeRoundTrip : Obligations.DecodeEncodeRoundTrip :=
  Machine.decode_encode

/-- Settles O2: a word is put together from its fields, which are the command's. -/
theorem encodeDecodedWord : Obligations.EncodeDecodedWord := fun w i h =>
  ((decode_eq_ok_iff w i).mp h).wf_and_encode

/-- A command's word is the only one that decodes to it, compared under the mask with no free bit (R58). -/
theorem decode_eq_ok_iff_fullMask (w : Word) (i : Instr) (h : i.wf = true) :
    decode w = .ok i ↔ w &&& 0xFFFFFFFF#32 = encode i := by
  have hmask : w &&& 0xFFFFFFFF#32 = w := BitVec.and_allOnes
  rw [hmask]
  constructor
  · exact fun hd => (encodeDecodedWord w i hd).2.symm
  · rintro rfl
    exact Machine.decode_encode i h

/-- Where a mask has only 1 bits, a word has the bits of its match. -/
theorem extractLsb'_of_and_eq {w mask pattern : Word} {start len : Nat} (h : w &&& mask = pattern)
    (hmask : mask.extractLsb' start len = BitVec.allOnes len) : w.extractLsb' start len = pattern.extractLsb' start len := by
  rw [← h, BitVec.extractLsb'_and, hmask, BitVec.and_allOnes]

/-- The words of ENC are its row of the opcode table (R58). -/
theorem decode_enc_iff_row (w : Word) :
    (∃ ver ivs tagb, decode w = .ok (.enc ver ivs tagb)) ↔ w &&& 0xFFFFFE0F#32 = 0x00000001#32 := by
  constructor
  · rintro ⟨ver, ivs, tagb, hd⟩
    obtain ⟨hwf, rfl⟩ := encodeDecodedWord w _ hd
    exact Laws.EncodeInRow.enc ver ivs tagb hwf
  · intro h
    have hres : reservedField w = 0 := congrArg BitVec.toNat (extractLsb'_of_and_eq h (start := 9) (len := 23) rfl)
    have hop : opField w = 1 := congrArg BitVec.toNat (extractLsb'_of_and_eq h (start := 0) (len := 4) rfl)
    exact ⟨verField w, ivsField w, tagbField w, (decode_eq_ok_iff w _).mpr ⟨hres, hop, rfl, rfl, rfl⟩⟩

/-- The words of LCG_TAG are its row of the opcode table (R58). -/
theorem decode_lcgTag_iff_row (w : Word) :
    (∃ tagb, decode w = .ok (.lcgTag tagb)) ↔ w &&& 0xFFFFFEFF#32 = 0x00000007#32 := by
  constructor
  · rintro ⟨tagb, hd⟩
    obtain ⟨hwf, rfl⟩ := encodeDecodedWord w _ hd
    exact Laws.EncodeInRow.lcgTag tagb hwf
  · intro h
    have hres : reservedField w = 0 := congrArg BitVec.toNat (extractLsb'_of_and_eq h (start := 9) (len := 23) rfl)
    have hop : opField w = 7 := congrArg BitVec.toNat (extractLsb'_of_and_eq h (start := 0) (len := 4) rfl)
    have hver : verField w = 0 := congrArg BitVec.toNat (extractLsb'_of_and_eq h (start := 4) (len := 3) rfl)
    have hivs : ivsField w = false := by simpa [ivsField] using congrArg (BitVec.getLsbD · 7) h
    exact ⟨tagbField w, (decode_eq_ok_iff w _).mpr ⟨hres, hop, hver, hivs, rfl⟩⟩

/-- A word is illegal exactly where it decodes to no command (R60). -/
theorem exists_decode_error_iff (w : Word) : (∃ e, decode w = .error e) ↔ ∀ i, decode w ≠ .ok i := by
  cases decode w <;> simp

/-- Settles O3: each command's words are its row, and an illegal word is no command's. -/
theorem decodeIsTheOpcodeTable : Obligations.DecodeIsTheOpcodeTable := by
  intro w
  have hnop := decode_eq_ok_iff_fullMask w .nop rfl
  have henc := decode_enc_iff_row w
  have hdec := decode_eq_ok_iff_fullMask w .dec rfl
  have hseed := decode_eq_ok_iff_fullMask w .lcgSeed rfl
  have hnext := decode_eq_ok_iff_fullMask w .lcgNext rfl
  have hblock := decode_eq_ok_iff_fullMask w .lcgBlock rfl
  have hrot := decode_eq_ok_iff_fullMask w .rotBlock rfl
  have htag := decode_lcgTag_iff_row w
  refine ⟨hnop, henc, hdec, hseed, hnext, hblock, hrot, htag, ?_⟩
  change _ ↔ w &&& 0xFFFFFFFF#32 ∉
    [encode .nop, encode .dec, encode .lcgSeed, encode .lcgNext, encode .lcgBlock, encode .rotBlock] ∧ _ ∧ _
  simp only [exists_decode_error_iff, List.mem_cons, List.not_mem_nil, or_false, not_or, ne_eq, ← hnop, ← henc, ← hdec,
    ← hseed, ← hnext, ← hblock, ← hrot, ← htag]
  constructor
  · intro h
    simp [h]
  · rintro ⟨⟨hnop, hdec, hseed, hnext, hblock, hrot⟩, henc, htag⟩ i
    cases i with
    | enc ver ivs tagb => exact fun hd => henc ⟨ver, ivs, tagb, hd⟩
    | lcgTag tagb => exact fun hd => htag ⟨tagb, hd⟩
    | nop | dec | lcgSeed | lcgNext | lcgBlock | rotBlock => assumption

/-- Settles O4: the fields as arithmetic of the word. -/
theorem commandFields : Obligations.CommandFields := by
  constructor
  · intro w ver ivs tagb h
    obtain ⟨-, -, rfl, rfl, rfl⟩ := (decode_eq_ok_iff w _).mp h
    exact ⟨verField_eq w, flagBit_ivsField w, flagBit_tagbField w⟩
  · intro w tagb h
    obtain ⟨-, -, -, -, rfl⟩ := (decode_eq_ok_iff w _).mp h
    exact flagBit_tagbField w

/-- Settles O5: each word is decoded. -/
theorem spelledWords : Obligations.SpelledWords := by
  unfold Obligations.SpelledWords
  decide

theorem flagBit_false : flagBit false = 0 := rfl

/-- A word with OP above 7, with a reserved bit, or with a bit in a field its command does not use stands for no command (R60). -/
theorem decode_error_of_illegal (w : Word)
    (h : 8 ≤ w.toNat % 2 ^ 4 ∨ w.toNat / 2 ^ 9 ≠ 0 ∨
      (w.toNat % 2 ^ 4 ≠ 1 ∧ w.toNat % 2 ^ 4 ≠ 7 ∧ w.toNat / 2 ^ 4 % 2 ^ 5 ≠ 0) ∨
      (w.toNat % 2 ^ 4 = 7 ∧ w.toNat / 2 ^ 4 % 2 ^ 4 ≠ 0)) : ∃ e, decode w = .error e := by
  cases hd : decode w with
  | error e => exact ⟨e, rfl⟩
  | ok i =>
    obtain ⟨hres, hop, hver, hivs, htagb⟩ := (decode_eq_ok_iff w i).mp hd
    have hivsBit := flagBit_ivsField w
    have htagbBit := flagBit_tagbField w
    rw [reservedField_eq] at hres
    rw [opField_eq] at hop
    rw [verField_eq] at hver
    rw [hivs] at hivsBit
    rw [htagb] at htagbBit
    cases i with
    | enc ver ivs tagb =>
      simp only [Instr.opcode] at hop
      omega
    | lcgTag tagb =>
      simp only [Instr.opcode, Instr.verValue, Instr.ivsFlag, flagBit_false] at hop hver hivsBit
      omega
    | nop | dec | lcgSeed | lcgNext | lcgBlock | rotBlock =>
      simp only [Instr.opcode, Instr.verValue, Instr.ivsFlag, Instr.tagbFlag, flagBit_false] at hop hver hivsBit htagbBit
      omega

/-- The turn of a BUSY engine on an illegal word (R60). -/
theorem engineTurn_illegal (s : Machine.State) (w : Word) (e : DecodeError) (h : s.seq = .busy w) (hd : decode w = .error e) :
    Machine.engineTurn s = .next (Machine.completeIllegal s) := by
  simp [Machine.engineTurn, h, hd]

/-- Settles O7: acceptance does not look at the word, and the word decodes to no command. -/
theorem illegalWordCompletes : Obligations.IllegalWordCompletes := by
  intro s w rest hw
  refine ⟨fun hs hi => ⟨_, Machine.step_cmdWrite_idle s w rest hs hi, rfl⟩, fun hs hnext => ?_⟩
  obtain ⟨e, he⟩ := decode_error_of_illegal w hw
  rw [Machine.step_of_engineNext s rest hnext, engineTurn_illegal { s with inputs := rest } w e hs he]
  rfl

end Sys2Proof
end

section
/-! PROOFS. The keystream's functions in arithmetic: the LCG's step, its jump ahead, the bytes of its block, and the bytes of
the rotation block (R64 to R71). -/

namespace Sys2Proof.Machine

/-- The LCG's step in exact arithmetic (R64, R65). -/
theorem lcgStep_toNat (x : Word) : (lcgStep x).toNat = (x.toNat * 0x41C64E6D + 12345) % 2 ^ 32 := by
  have hmul : (0x41C64E6D : Word).toNat = 0x41C64E6D := rfl
  have hadd : (12345 : Word).toNat = 12345 := rfl
  rw [lcgStep, add32, mul32, BitVec.toNat_add, BitVec.toNat_mul, hmul, hadd]
  omega

/-- The LCG's byte in exact arithmetic (R66). -/
theorem lcgByte_toNat (x : Word) : (lcgByte x).toNat = x.toNat / 2 ^ 16 % 2 ^ 8 := by
  rw [lcgByte, BitVec.extractLsb'_toNat, Nat.shiftRight_eq_div_pow]

theorem lcgAfter_succ (k : Nat) (x : Word) : lcgAfter (k + 1) x = lcgStep (lcgAfter k x) :=
  lcgAfter_add k 1 x

/-- The increment and the multiplier of `2 ^ k` LCG steps taken at once: an affine map done twice is an affine map. -/
def lcgJump : Nat → Word × Word
  | 0 => (12345, 0x41C64E6D)
  | k + 1 => ((lcgJump k).1 + (lcgJump k).2 * (lcgJump k).1, (lcgJump k).2 * (lcgJump k).2)

/-- `2 ^ k` LCG steps are one affine map (R65). -/
theorem lcgAfter_two_pow (k : Nat) (x : Word) : lcgAfter (2 ^ k) x = (lcgJump k).1 + (lcgJump k).2 * x := by
  induction k generalizing x with
  | zero => rfl
  | succ k ih =>
    rw [pow_succ, Nat.mul_two, lcgAfter_add, ih, ih, lcgJump]
    ring

/-- The block of R76's example: the state it leaves and its first 16 bytes. -/
theorem lcgBlock_example :
    (lcgBlock 12345).2 = 0xF2CAE739 ∧ (lcgBlock 12345).1.take 16 =
      [0xDC, 0x04, 0x65, 0xAA, 0x1F, 0xAD, 0x1D, 0x5A, 0xDA, 0xE5, 0xAC, 0x1B, 0x1E, 0x5F, 0x13, 0x70] := by
  simp only [lcgBlock]
  constructor
  · exact (lcgAfter_two_pow 8 12345).trans (by decide)
  · rw [lcgOutputs_add 16 240, List.take_left' (lcgOutputs_length 16 12345)]
    decide

/-- The model's rotation of a byte is the library's (R69). -/
theorem rotl8_eq_rotateLeft (x : Byte) (g : Nat) (hg : g < 8) : rotl8 x g = x.rotateLeft g := by
  rw [rotl8, BitVec.rotateLeft_def, Nat.mod_eq_of_lt hg]

/-- Where strings of one length stand one after another, byte `j` of string `g` is byte `L * g + j` of the whole. -/
theorem getElem?_flatMap_range {α : Type} (f : Nat → List α) (L : Nat) (hf : ∀ g, (f g).length = L) (n g j : Nat) (hg : g < n)
    (hj : j < L) : ((List.range n).flatMap f)[L * g + j]? = (f g)[j]? := by
  induction n with
  | zero => omega
  | succ n ih =>
    have hlen : ((List.range n).flatMap f).length = L * n := by simp [List.length_flatMap, hf, Nat.mul_comm]
    rw [List.range_succ, List.flatMap_append, List.flatMap_singleton]
    by_cases hlast : g = n
    · subst hlast
      rw [List.getElem?_append_right (by omega), hlen, Nat.add_sub_cancel_left]
    · have hlt : L * g + j < L * n :=
        calc L * g + j < L * (g + 1) := by rw [Nat.mul_add_one]; omega
          _ ≤ L * n := Nat.mul_le_mul_left L (by omega)
      rw [List.getElem?_append_left (hlen ▸ hlt), ih (by omega)]

/-- Byte `j` of group `g` of the rotation block is IV byte `j` rotated left by `g` (R70). -/
theorem rotBlock_getD (iv : List Byte) (g j : Nat) (hg : g < 8) (hj : j < iv.length) :
    (rotBlock iv).getD (iv.length * g + j) 0 = (iv.getD j 0).rotateLeft g := by
  rw [List.getD_eq_getElem?_getD, rotBlock, getElem?_flatMap_range _ iv.length (by simp) 8 g j hg hj]
  simp [hj, rotl8_eq_rotateLeft _ g hg]

end Sys2Proof.Machine
end

section
/-! PROOFS. NOP and the keystream commands LCG_SEED, LCG_NEXT, LCG_BLOCK and ROT_BLOCK (R73 to R77). -/

namespace Sys2Proof.Machine

/-- An error completion is `State.failed` with the error's code (R123). -/
theorem abort_eq_failed (e : ErrorCode) (s : State) : abort e s = s.failed e.code := by
  cases e <;> rfl

/-- A byte of what MemWrite wrote (R41). -/
theorem Memory.read_writeBytes_add (m : Memory) (a : Nat) (out : List Byte) (k : Nat) (hk : k < out.length) :
    (m.writeBytes a out).read (a + k) = out.getD k 0 := by
  rw [Memory.read_writeBytes, if_pos (by omega), Nat.add_sub_cancel_left]

/-- MemRead of the first bytes of what MemWrite wrote (R41). -/
theorem Memory.readBytes_writeBytes_take (m : Memory) (a : Nat) (out : List Byte) (n : Nat) (hn : n ≤ out.length) :
    (m.writeBytes a out).readBytes a n = out.take n := by
  apply List.ext_getElem?
  intro k
  rw [Memory.readBytes_getElem?, List.getElem?_take]
  split_ifs with hk
  · rw [Memory.read_writeBytes_add m a out k (by omega)]
    simp [show k < out.length by omega]
  · rfl

/-- Settles O19: a word with OP = 0 that is not 0 has a bit outside OP, so it is illegal. -/
theorem nopCompletes : Obligations.NopCompletes := by
  refine ⟨fun _ => rfl, decode_encode .nop rfl, fun w hop hw => decode_error_of_illegal w ?_, fun s t hie h => ?_, ?_⟩
  · have hpos : w.toNat ≠ 0 := fun h0 => hw (BitVec.eq_of_toNat_eq h0)
    omega
  · cases h
    exact hie
  · exact ⟨_, stepRunsDecodedCommand.2 State.reset .nop rfl, by decide⟩

/-- Settles O20: LCG_SEED's meaning is the statement. -/
theorem lcgSeedCompletes : Obligations.LcgSeedCompletes :=
  ⟨fun _ => rfl, decode_encode .lcgSeed rfl⟩

/-- Settles O21: the step and the byte in exact arithmetic, and evaluated at the three corner values. -/
theorem lcgNextCompletes : Obligations.LcgNextCompletes := by
  refine ⟨fun s => ⟨lcgStep s.lcgState, lcgByte (lcgStep s.lcgState), rfl, lcgStep_toNat _, lcgByte_toNat _, ?_, ?_, ?_⟩,
    decode_encode .lcgNext rfl⟩ <;>
  · intro h
    rw [h]
    decide

/-- The state LCG_NEXT leaves (R75). -/
def afterLcgNext (s : State) : State :=
  complete { s with lcgState := lcgStep s.lcgState, result := lcgByte (lcgStep s.lcgState) }

/-- LCG_NEXT run again and again from `s` (R76). -/
def lcgNextRun (s : State) : Nat → State
  | 0 => s
  | k + 1 => afterLcgNext (lcgNextRun s k)

theorem exec_lcgNext (s : State) : exec .lcgNext s = .next (afterLcgNext s) := rfl

/-- LCG_STATE after `k` LCG_NEXT commands (R75). -/
theorem lcgNextRun_lcgState (s : State) (k : Nat) : (lcgNextRun s k).lcgState = lcgAfter k s.lcgState := by
  induction k with
  | zero => rfl
  | succ k ih => rw [lcgAfter_succ, ← ih]; rfl

/-- 256 LCG_NEXT commands leave the block's state (R76). -/
theorem lcgNextRun_block_lcgState (s : State) : (lcgNextRun s 256).lcgState = (lcgBlock s.lcgState).2 := by
  rw [lcgNextRun_lcgState, lcgBlock]

/-- RESULT after `k + 1` LCG_NEXT commands is byte `k` of the block (R76). -/
theorem lcgNextRun_result (s : State) (k : Nat) (hk : k < 256) :
    (lcgNextRun s (k + 1)).result = (lcgBlock s.lcgState).1.getD k 0 := by
  rw [lcgBlock, lcgOutputs_getD 256 k _ hk, ← lcgNextRun_lcgState]
  rfl

/-- The state a successful LCG_BLOCK or ROT_BLOCK leaves: its block stored, LCG_STATE at `x` (R76, R77). -/
def storedBlock (s : State) (x : Word) (block : List Byte) : State :=
  complete (storeOutput block 256 { s with lcgState := x })

section StoredBlock
variable (s : State) (x : Word) (block : List Byte) (hlen : block.length = 256)

theorem storedBlock_eq :
    storedBlock s x block = { s with
      mem := (storedBlock s x block).mem
      lcgState := x
      dstLen := 256
      seq := .idle
      status := s.okStatus 0 } := rfl

theorem storedBlock_lcgState : (storedBlock s x block).lcgState = x := rfl

include hlen

theorem storedBlock_read (k : Nat) (hk : k < 256) :
    (storedBlock s x block).mem.read (s.dstAddr.toNat + k) = block.getD k 0 :=
  Memory.read_writeBytes_add s.mem s.dstAddr.toNat block k (hlen ▸ hk)

theorem storedBlock_read_outside (a : Nat) (ha : a < s.dstAddr.toNat ∨ s.dstAddr.toNat + 256 ≤ a) :
    (storedBlock s x block).mem.read a = s.mem.read a := by
  refine Memory.read_writeBytes_of_not_has s.mem (dstRegion s 256) block hlen a ?_
  simp only [← Bool.not_eq_true, has_iff, dstRegion]
  omega

theorem storedBlock_readBytes (n : Nat) (hn : n ≤ 256) :
    (storedBlock s x block).mem.readBytes s.dstAddr.toNat n = block.take n :=
  Memory.readBytes_writeBytes_take s.mem s.dstAddr.toNat block n (hlen ▸ hn)

end StoredBlock

/-- LCG_BLOCK's region checks in arithmetic (R42, R76). -/
theorem lcgBlock_regionsOk_iff (s : State) :
    regionsOk s [] (dstRegion s 256) = true ↔ s.dstAddr.toNat + 256 ≤ s.platform.memSize ∧ 256 ≤ s.dstCap.toNat := by
  simp [regionsOk_iff, dstRegion, and_comm]

/-- ROT_BLOCK's region checks in arithmetic, for an IV of its length (R42, R77). -/
theorem rotBlock_regionsOk_iff (s : State) (hlen : s.ivLen.toNat = 32) :
    regionsOk s [ivRegion s] (dstRegion s 256) = true ↔
      s.ivAddr.toNat + 32 ≤ s.platform.memSize ∧ s.dstAddr.toNat + 256 ≤ s.platform.memSize ∧ 256 ≤ s.dstCap.toNat ∧
        ¬meet s.dstAddr.toNat 256 s.ivAddr.toNat 32 := by
  have hapart : (dstRegion s 256).overlaps (ivRegion s) = false ↔ ¬meet s.dstAddr.toNat 256 s.ivAddr.toNat 32 := by
    rw [← Bool.not_eq_true, overlaps_iff]
    simp [dstRegion, ivRegion, hlen]
  simp only [regionsOk_iff, List.forall_mem_singleton, hapart]
  simp only [dstRegion, ivRegion, hlen]
  tauto

/-- Settles O22: `lcgNextRun` is the sequence of LCG_NEXT commands, and its RESULT bytes are the block's. -/
theorem lcgBlockCompletes : Obligations.LcgBlockCompletes := by
  intro s
  rw [← lcgBlock_regionsOk_iff]
  rcases execLcgBlock_cases s with ⟨hok, h⟩ | ⟨hbad, h⟩
  · refine ⟨fun _ => ?_, fun hbad => absurd hok hbad, decode_encode .lcgBlock rfl⟩
    have hlen := lcgBlock_length s.lcgState
    refine ⟨storedBlock s (lcgBlock s.lcgState).2 (lcgBlock s.lcgState).1, lcgNextRun s, rfl,
      fun k => exec_lcgNext (lcgNextRun s k), h, ?_, fun k hk => ?_, storedBlock_read_outside s _ _ hlen, fun hx => ?_⟩
    · rw [lcgNextRun_block_lcgState]
      exact storedBlock_eq s _ _
    · rw [lcgNextRun_result s k hk]
      exact storedBlock_read s _ _ hlen k hk
    · rw [storedBlock_lcgState, storedBlock_readBytes s _ _ hlen 16 (by decide), hx]
      exact lcgBlock_example
  · refine ⟨fun hok => absurd hok (by simp [hbad]), fun _ => ?_, decode_encode .lcgBlock rfl⟩
    exact h.trans (congrArg _ (abort_eq_failed .regionFault s))

/-- Settles O23: each outcome of ROT_BLOCK excludes the clauses of the other two; the bytes are those of `rotBlock_getD`. -/
theorem rotBlockCompletes : Obligations.RotBlockCompletes := by
  intro s
  rcases execRotBlock_cases s with ⟨h32, hok, h⟩ | ⟨h32, hbad, h⟩ | ⟨hne, h⟩
  · refine ⟨fun hne => absurd h32 hne, fun _ hbad => ?_, fun _ _ _ _ _ => ?_, decode_encode .rotBlock rfl⟩
    · exact absurd ((rotBlock_regionsOk_iff s h32).mp hok) hbad
    have hiv : (s.mem.readBytes s.ivAddr.toNat 32).length = 32 := Memory.readBytes_length _ _ _
    have hlen : (rotBlock (s.mem.readBytes s.ivAddr.toNat 32)).length = 256 := by simp
    refine ⟨storedBlock s s.lcgState _, h, storedBlock_eq s _ _, fun g hg j hj => ?_, storedBlock_read_outside s _ _ hlen⟩
    have hbyte := rotBlock_getD _ g j hg (hiv.symm ▸ hj)
    rw [hiv, Memory.readBytes_getD _ _ _ _ hj] at hbyte
    exact (storedBlock_read s _ _ hlen (32 * g + j) (by omega)).trans hbyte
  · refine ⟨fun hne => absurd h32 hne, fun _ _ => ?_, fun _ hiv hdst hcap hapart => ?_, decode_encode .rotBlock rfl⟩
    · exact h.trans (congrArg _ (abort_eq_failed .regionFault s))
    · have hok := (rotBlock_regionsOk_iff s h32).mpr ⟨hiv, hdst, hcap, hapart⟩
      exact absurd hok (by simp [hbad])
  · refine ⟨fun _ => ?_, fun h32 => absurd h32 hne, fun h32 => absurd h32 hne, decode_encode .rotBlock rfl⟩
    exact h.trans (congrArg _ (abort_eq_failed .invalidIv s))

end Sys2Proof.Machine
end

section
/-! PROOFS. The laws of the chain: decryption undoes encryption, block `i` is decrypted from two ciphertext blocks, and a changed
block changes two recovered blocks at most (R86). -/

namespace Sys2Proof.Machine

/-- Decryption recovers the message block by block: both sides reach a block with the same keystream block (R84, R85). -/
theorem chainDecBlocks_chainEncBlocks (f g : List Byte → List Byte) (b : Nat) (hf : ∀ x, x.length = b → (f x).length = b)
    (hgf : ∀ x, x.length = b → g (f x) = x) (n : Nat) (k m : List Byte) (hk : k.length = b) (hm : m.length = n * b) :
    chainDecBlocks g b n k (chainEncBlocks f b n k m) = m := by
  induction n generalizing k m with
  | zero => exact (List.eq_nil_of_length_eq_zero (by simpa using hm)).symm
  | succ n ih =>
    rw [Nat.succ_mul] at hm
    have hx : (xorBytes (m.take b) k).length = b := by simp [hk]; omega
    have hrest : (m.drop b).length = n * b := by simp; omega
    rw [chainEncBlocks_succ, chainDecBlocks_succ, List.take_left' (hf _ hx), List.drop_left' (hf _ hx), hgf _ hx,
      xorBytes_xorBytes _ _ (by simp [hk]), ih _ _ (hf _ hx) hrest, List.take_append_drop]

/-- Settles O38: the ciphertext has as many blocks as the message, and they are decrypted one by one. -/
theorem chainInverse : Obligations.ChainInverse := by
  intro f g b k m _ hf hgf hk hm
  unfold chainDec
  rw [chainEnc_length f b hf k m hk hm]
  exact chainDecBlocks_chainEncBlocks f g b hf hgf _ k m hk (Nat.div_mul_cancel (Nat.dvd_of_mod_eq_zero hm)).symm

/-- Behind its first `b` bytes the blocks of a string are one block nearer. -/
theorem slice_drop_block (s : List Byte) (b i : Nat) :
    slice (s.drop b) (i * b) ((i + 1) * b) = slice s ((i + 1) * b) ((i + 1 + 1) * b) := by
  rw [slice, slice, List.drop_drop, Nat.succ_mul (i + 1), Nat.succ_mul i, Nat.add_sub_add_right, Nat.add_comm b]

theorem slice_append_block (x y : List Byte) (b i : Nat) (hx : x.length = b) :
    slice (x ++ y) ((i + 1) * b) ((i + 1 + 1) * b) = slice y (i * b) ((i + 1) * b) := by
  rw [← slice_drop_block, List.drop_left' hx]

/-- Block 0 is the first `b` bytes. -/
theorem slice_block_zero (s : List Byte) (b : Nat) : slice s (0 * b) ((0 + 1) * b) = s.take b := by simp [slice]

/-- `K_i` of ChainDec: the initial keystream block, then the ciphertext block before the `i`-th, as received (R85). -/
def chainDecKey (b : Nat) (k0 c : List Byte) : Nat → List Byte
  | 0 => k0
  | i + 1 => slice c (i * b) ((i + 1) * b)

theorem chainDecKey_eq_ite (b : Nat) (k0 c : List Byte) (i : Nat) :
    chainDecKey b k0 c i = if i = 0 then k0 else slice c ((i - 1) * b) (i * b) := by
  cases i <;> rfl

/-- After its first block ChainDec goes on with that block, as received, for a keystream block (R85). -/
theorem chainDecKey_drop (b : Nat) (k0 c : List Byte) (i : Nat) :
    chainDecKey b (c.take b) (c.drop b) i = chainDecKey b k0 c (i + 1) := by
  cases i with
  | zero => exact (slice_block_zero c b).symm
  | succ i => exact slice_drop_block c b i

/-- Block `i` of the recovered message is ciphertext block `i` undone, XOR `K_i` (R86). -/
theorem slice_chainDecBlocks (g : List Byte → List Byte) (b : Nat) (hg : ∀ x, x.length = b → (g x).length = b) (n : Nat)
    (k c : List Byte) (hk : k.length = b) (hc : c.length = n * b) (i : Nat) (hi : i < n) :
    slice (chainDecBlocks g b n k c) (i * b) ((i + 1) * b) =
      xorBytes (g (slice c (i * b) ((i + 1) * b))) (chainDecKey b k c i) := by
  induction n generalizing k c i with
  | zero => omega
  | succ n ih =>
    rw [Nat.succ_mul] at hc
    have ht : (c.take b).length = b := by simp; omega
    have hx : (xorBytes (g (c.take b)) k).length = b := by simp [hg _ ht, hk]
    rw [chainDecBlocks_succ]
    cases i with
    | zero => rw [slice_block_zero, slice_block_zero, List.take_left' hx, chainDecKey]
    | succ i =>
      rw [slice_append_block _ _ b i hx, ih _ _ ht (by simp; omega) i (by omega), slice_drop_block, chainDecKey_drop]

/-- Locality of ChainDec (R86, item 2). -/
theorem slice_chainDec (g : List Byte → List Byte) (b : Nat) (hg : ∀ x, x.length = b → (g x).length = b) (k c : List Byte)
    (hk : k.length = b) (hc : c.length % b = 0) (i : Nat) (hi : i < c.length / b) :
    slice (chainDec g b k c) (i * b) ((i + 1) * b) =
      xorBytes (g (slice c (i * b) ((i + 1) * b))) (chainDecKey b k c i) :=
  slice_chainDecBlocks g b hg _ k c hk (Nat.div_mul_cancel (Nat.dvd_of_mod_eq_zero hc)).symm i hi

/-- `K_i` does not depend on ciphertext block `j` unless `i = j + 1` (R85). -/
theorem chainDecKey_congr (b n : Nat) (k c c' : List Byte) (j : Nat)
    (h : ∀ i < n, i ≠ j → slice c' (i * b) ((i + 1) * b) = slice c (i * b) ((i + 1) * b)) (i : Nat) (hi : i < n)
    (hne : i ≠ j + 1) : chainDecKey b k c' i = chainDecKey b k c i := by
  cases i with
  | zero => rfl
  | succ i => exact h i (by omega) (by omega)

/-- Settles O39: by locality, a block other than `j` and `j + 1` is decrypted from blocks that did not change. -/
theorem chainContainment : Obligations.ChainContainment := by
  intro g b k c _ hg hk hc
  refine ⟨fun i hi => ?_, fun c' j hlen hsame i hi hij hij' => ?_⟩
  · rw [slice_chainDec g b hg k c hk hc i hi, chainDecKey_eq_ite]
  · rw [slice_chainDec g b hg k c hk hc i hi, slice_chainDec g b hg k c' hk (hlen ▸ hc) i (hlen ▸ hi), hsame i hi hij,
      chainDecKey_congr b _ k c c' j hsame i hi hij']

end Sys2Proof.Machine
end

section
/-! PROOFS. A completion whose collaborator does not return is never taken (R82, R125). -/

namespace Sys2Proof.Machine

/-- A state that a step leaves as it is stays for ever. -/
theorem steps_of_step_self (s : State) (h : step s = .next s) (n : Nat) : steps n s = .next s := by
  induction n with
  | zero => rfl
  | succ n ih => exact (steps_succ n s s h).trans ih

/-- With no move left, a BUSY engine runs its command on the very state (R16). -/
theorem step_busy_alone (s : State) (w : Word) (i : Instr) (hs : s.seq = .busy w) (hi : s.inputs = [])
    (hd : decode w = .ok i) : step s = exec i s := by
  rw [step_busy s w i [] hs hd (.inr ⟨hi, rfl⟩), ← hi]

/-- Settles O45: ENC and DEC that call a collaborator that does not return leave the state as it is, so the next turn finds it again. -/
theorem hangLeavesBusy : Obligations.HangLeavesBusy := by
  constructor
  · intro ver ivs tagb w s v n hs hi hd hv hok hb
    refine steps_of_step_self s ?_ n
    exact (step_busy_alone s w _ hs hi hd).trans (encWith_stuck _ ver ivs tagb s v hv hok hb)
  · intro w s fam p out n hs hi hd hf hok hp hdec hb
    refine steps_of_step_self s ?_ n
    exact (step_busy_alone s w _ hs hi hd).trans (decWith_stuck _ s fam p hp out hf hok hdec hb)

end Sys2Proof.Machine
end

section
/-! PROOFS. The padding scheme: the padded plaintext written out, and what Unpad does to it (R88 to R92). -/

namespace Sys2Proof.Machine

/-- The byte that the model reads as the last one of a string is the last one. -/
theorem getD_length_sub_one_concat (xs : List Byte) (x : Byte) : (xs ++ [x]).getD ((xs ++ [x]).length - 1) 0 = x := by
  simp

theorem padLen_bounds (n : Nat) : 1 ≤ padLen n ∧ padLen n ≤ 256 := by
  unfold padLen
  omega

/-- The padded plaintext written out: the plaintext, `p - 1` zeros, and the pad length byte (R88, R89). -/
theorem pad_eq_append (m : List Byte) :
    pad m = m ++ zeros (padLen m.length - 1) ++ [BitVec.ofNat 8 (padLen m.length % 256)] := by
  obtain ⟨k, hk⟩ : ∃ k, padLen m.length = k + 1 := Nat.exists_eq_add_of_le' (padLen_bounds m.length).1
  have hzeros : zeros (k + 1) = zeros k ++ [0] := List.replicate_succ'
  rw [pad, hk, hzeros]
  simp

/-- The last byte of a padded plaintext (R89). -/
theorem padByte_pad (m : List Byte) : padByte (pad m) = BitVec.ofNat 8 (padLen m.length % 256) := by
  rw [pad_eq_append]
  exact getD_length_sub_one_concat _ _

/-- In the exact-multiple case the padding is 256 zero bytes, as its last byte is `256 mod 256` (R90). -/
theorem pad_of_exact_multiple (m : List Byte) (h : m.length % 256 = 0) : pad m = m ++ List.replicate 256 0 := by
  have hp : padLen m.length = 256 := by rw [padLen, h]
  have hzeros : List.replicate (255 + 1) (0 : Byte) = zeros 255 ++ [0] := List.replicate_succ'
  rw [pad_eq_append, hp, List.append_assoc]
  exact congrArg (m ++ ·) hzeros.symm

theorem unpad_length (p : List Byte) : (unpad p).length = p.length - (padByte p).toNat := by
  rw [unpad, List.length_take]
  omega

/-- Settles O34: each clause is read off the padded plaintext written out. -/
theorem padShape : Obligations.PadShape := by
  intro m _
  obtain ⟨hpos, hmax⟩ := padLen_bounds m.length
  have hlen := pad_length m
  refine ⟨padLen m.length, rfl, hpos, hmax, hlen, pad_length_mod m, ?_, ?_, fun k hk hlast => ?_, ?_, fun hmod => ?_⟩
  · rw [hlen, padLen]
    omega
  · rw [pad_eq_append, List.append_assoc, List.take_left]
  · rw [pad_eq_append, List.getElem?_append_left (by simp; omega), List.getElem?_append_right hk, zeros,
      List.getElem?_replicate, if_pos (by omega)]
  · have hlast : m.length + padLen m.length - 1 = (m ++ zeros (padLen m.length - 1)).length := by
      rw [List.length_append, zeros_length]
      omega
    rw [pad_eq_append, hlast, List.getElem?_concat_length]
  · rw [pad_of_exact_multiple m hmod, List.drop_left, padLen, hmod]
    exact ⟨rfl, rfl⟩

/-- Settles O35: the pad length byte is `p` when `p < 256`, and 0 in the exact-multiple case; no byte is above 255. -/
theorem padUnpadLaws : Obligations.PadUnpadLaws := by
  refine ⟨fun m _ hmod => ?_, fun m _ hmod => ?_, fun p hp => ?_⟩
  · have hq : (padByte (pad m)).toNat = padLen m.length := by
      rw [padByte_pad, BitVec.toNat_ofNat, padLen]
      omega
    rw [unpad, hq, pad_length, Nat.add_sub_cancel, pad_eq_append, List.append_assoc, List.take_left]
  · have hq : (padByte (pad m)).toNat = 0 := by
      rw [padByte_pad, padLen, hmod]
      rfl
    rw [unpad, hq, Nat.sub_zero, List.take_length, pad_of_exact_multiple m hmod]
  · have hq := (padByte p).isLt
    rw [unpad_length]
    omega

end Sys2Proof.Machine
end

section
/-! PROOFS. The trailer mux: the bits that mark a tag, and what a changed trailer is read as (R93 to R99). -/

namespace Sys2Proof.Machine

/-- The bit that marks a tag: bit 4 of tag B, bit 3 of tags A and A′ (R93, R95). -/
def tagMark (useB : Bool) : Nat := if useB then 4 else 3

theorem tag_getLsbD_tagMark (b : Byte) (useB gen : Bool) : (tag b useB gen).getLsbD (tagMark useB) = true := by
  cases useB <;> simp [tag, tagMark, tagA, tagB]

/-- The fixed tags have both marks clear (R95). -/
theorem getLsbD_tagMark_of_fixed {t : Byte} (h : t = tagC ∨ t = tagD) (useB : Bool) : t.getLsbD (tagMark useB) = false := by
  rcases h with rfl | rfl <;> cases useB <;> rfl

/-- Tags A, A′ and B are neither fixed tag: a fixed tag has their mark clear (R95). -/
theorem tag_not_fixed (b : Byte) (useB gen : Bool) : ¬(tag b useB gen = tagC ∨ tag b useB gen = tagD) := fun h =>
  Bool.false_ne_true ((getLsbD_tagMark_of_fixed h useB).symm.trans (tag_getLsbD_tagMark b useB gen))

/-- The trailer alone selects among the versions 3 to 5 (R113). -/
theorem version_tagged_concat (p : List Byte) (t : Byte) :
    Family.version .tagged (p ++ [t]) = if t = tagD then .v5 else if t = tagC then .v4 else .v3 := by
  rw [Family.version, getD_length_sub_one_concat]

theorem version_tagged_of_not_fixed (p : List Byte) (t : Byte) (h : ¬(t = tagC ∨ t = tagD)) :
    Family.version .tagged (p ++ [t]) = .v3 := by
  rw [version_tagged_concat, if_neg (h ∘ .inr), if_neg (h ∘ .inl)]

/-- Version 3 fails to decode exactly when its header's seed does not accept its trailer (R98, R114). -/
theorem decodePayload_v3_integrityFailure_iff (c : Config.Collaborators) (gen : Bool) (hdr body : List Byte) (t : Byte)
    (hlen : hdr.length = 4) :
    decodePayload c gen .v3 (hdr ++ body ++ [t]) = .error .integrityFailure ↔ trailerAccepted t (be32 hdr) gen = false := by
  have hhdr : slice (hdr ++ body ++ [t]) 0 4 = hdr := by simp [slice, ← hlen]
  rw [decodePayload, decode3, getD_length_sub_one_concat, hhdr]
  cases trailerAccepted t (be32 hdr) gen <;> simp

/-- A trailer is accepted when it is one of the seed's two tags (R98). -/
theorem trailerAccepted_eq_false_iff (t : Byte) (seed : Word) (gen : Bool) :
    trailerAccepted t seed gen = false ↔ ∀ useB, t ≠ tag (trailerByte seed) useB gen := by
  simp [trailerAccepted, tag]

/-- With TAGGEN = 0 the two tags of a byte differ in both marks (R93). -/
theorem tag_xor_tag_not (b : Byte) (useB : Bool) : tag b useB false ^^^ tag b (!useB) false = 0x18 := by
  apply BitVec.eq_of_getLsbD_eq
  intro i hi
  cases useB <;> interval_cases i <;> simp [tag, tagA, tagB]

/-- With TAGGEN = 0 a tag without its mark is the byte's bits under the mask 0xE3 (R93). -/
theorem tag_xor_tagMark (b : Byte) (useB : Bool) : tag b useB false ^^^ (1#8 <<< tagMark useB) = b &&& 0xE3 := by
  apply BitVec.eq_of_getLsbD_eq
  intro i hi
  cases useB <;> interval_cases i <;> simp [tag, tagMark, tagA, tagB]

/-- With TAGGEN = 0 one flipped bit never turns a tag into a tag of the same byte, as the two are two bits apart (R99). -/
theorem flipped_tag_ne_tag (b : Byte) (useB : Bool) (k : Nat) (hk : k < 8) (useB' : Bool) :
    tag b useB false ^^^ (1#8 <<< k) ≠ tag b useB' false := by
  intro h
  have hbit : 1#8 <<< k = tag b useB false ^^^ tag b useB' false := by
    rw [← h, ← BitVec.xor_assoc, BitVec.xor_self, BitVec.zero_xor]
  have hne : ∀ k < 8, 1#8 <<< k ≠ 0 ∧ 1#8 <<< k ≠ 0x18 := by decide
  by_cases hsame : useB' = useB
  · rw [hsame, BitVec.xor_self] at hbit
    exact (hne k hk).1 hbit
  · rw [Bool.eq_not_of_ne hsame, tag_xor_tag_not] at hbit
    exact (hne k hk).2 hbit

/-- A flip that clears a tag's mark is the flip of that bit. -/
theorem eq_tagMark_of_flip (b : Byte) (useB gen : Bool) (k : Nat)
    (h : (tag b useB gen ^^^ (1#8 <<< k)).getLsbD (tagMark useB) = false) : k = tagMark useB := by
  have hbit : k < 8 ∧ k = tagMark useB := by
    simpa [tag_getLsbD_tagMark, ← BitVec.twoPow_eq, BitVec.getLsbD_twoPow] using h
  exact hbit.2

/-- With TAGGEN = 1 and bit 4 of the byte set, tag A′ is tag B but for bit 3 (R99, item 2). -/
theorem tagA_xor_bit_three (b : Byte) (hb : b.getLsbD 4 = true) : tagA b true ^^^ (1#8 <<< 3) = tagB b := by
  apply BitVec.eq_of_getLsbD_eq
  intro i hi
  interval_cases i <;> simp [tagA, tagB, hb]

/-- Settles O36: a tag's mark is set, and both fixed tags have it clear. -/
theorem tagsNeverFixed : Obligations.TagsNeverFixed := by
  refine ⟨fun b gen => ⟨tag_getLsbD_tagMark b false gen, tag_getLsbD_tagMark b true gen, rfl, rfl, rfl, rfl⟩,
    fun p b useB gen => ?_⟩
  have hnot := tag_not_fixed b useB gen
  exact ⟨hnot ∘ .inl, hnot ∘ .inr, version_tagged_of_not_fixed p _ hnot⟩

/-- Settles O37: a flip gives no tag of the byte, and a fixed tag only where it clears the mark; the body plays no part. -/
theorem trailerDetection : Obligations.TrailerDetection := by
  refine ⟨fun c hdr body useB k b t hlen hk hb ht => ?_, tagA_xor_bit_three, fun c gen hdr body body' t hlen _ => ?_⟩
  · by_cases hfixed : t = tagC ∨ t = tagD
    · have hmark : k = tagMark useB := eq_tagMark_of_flip b useB false k (ht ▸ getLsbD_tagMark_of_fixed hfixed useB)
      have hmasked : b &&& 0xE3 = t := by rw [ht, hmark, tag_xor_tagMark]
      refine .inr ⟨hmark, hfixed.imp (fun hC => ?_) (fun hD => ?_)⟩
      · exact ⟨hmasked.trans hC, hC, by rw [version_tagged_concat, hC]; rfl⟩
      · exact ⟨hmasked.trans hD, hD, by rw [version_tagged_concat, hD]; rfl⟩
    · refine .inl ⟨version_tagged_of_not_fixed _ t hfixed, ?_⟩
      rw [decodePayload_v3_integrityFailure_iff c false hdr body t hlen, trailerAccepted_eq_false_iff, ← hb, ht]
      exact flipped_tag_ne_tag b useB k hk
  · rw [decodePayload_v3_integrityFailure_iff c gen hdr body t hlen,
      decodePayload_v3_integrityFailure_iff c gen hdr body' t hlen]

end Sys2Proof.Machine
end

section
/-! PROOFS. LCG_TAG, with the tags in exact arithmetic (R93, R100). -/

namespace Sys2Proof.Machine

theorem tagA_toNat (b : Byte) (gen : Bool) :
    (tagA b gen).toNat = b.toNat &&& (if gen then 0xF3 else 0xE3) ||| 0x08 := by
  cases gen <;> rfl

theorem tagB_toNat (b : Byte) : (tagB b).toNat = b.toNat &&& 0xE3 ||| 0x10 := rfl

/-- Settles O24: the step and the tags in exact arithmetic; a word with OP = 7 that is neither of the two has VER, IVS or a
reserved bit set. -/
theorem lcgTagCompletes : Obligations.LcgTagCompletes := by
  refine ⟨fun s useB => ⟨lcgStep s.lcgState, tag (lcgByte (lcgStep s.lcgState)) useB s.ctrl.tagGen, rfl, lcgStep_toNat _,
    ?_, ?_, ?_, fun hx => ?_⟩, decode_encode (.lcgTag false) rfl, decode_encode (.lcgTag true) rfl,
    fun w hop hA hB => decode_error_of_illegal w ?_⟩
  · rintro rfl
    rw [← lcgByte_toNat]
    exact tagB_toNat _
  · rintro rfl hgen
    rw [← lcgByte_toNat, hgen]
    exact tagA_toNat _ false
  · rintro rfl hgen
    rw [← lcgByte_toNat, hgen]
    exact tagA_toNat _ true
  · rw [hx]
    cases useB <;> cases s.ctrl.tagGen <;> decide
  · have hA' : w.toNat ≠ 0x007 := fun h => hA (BitVec.eq_of_toNat_eq h)
    have hB' : w.toNat ≠ 0x107 := fun h => hB (BitVec.eq_of_toNat_eq h)
    omega

end Sys2Proof.Machine
end

section
/-! PROOFS. What ENC and DEC store, the regions they check, and ENC's completion and errors (R42, R43, R102 to R104, R124). -/

namespace Sys2Proof.Machine

/-- The state a successful ENC or DEC leaves: its output in memory, `len` in DST_LEN, its version in DVER, the draw counter at `k`
(R103, R104, R111). -/
def storedPayload (s : State) (v : Version) (out : List Byte) (len k : Nat) : State :=
  completeVersion v (storeOutput out len { s with draws := k })

section StoredPayload
variable (s : State) (v : Version) (out : List Byte) (len k : Nat)

theorem storedPayload_eq :
    storedPayload s v out len k = { s with
      mem := (storedPayload s v out len k).mem
      dstLen := BitVec.ofNat 32 len
      seq := .idle
      status := s.okStatus v.number
      draws := k } := rfl

theorem storedPayload_dstLen : (storedPayload s v out len k).dstLen = BitVec.ofNat 32 len := rfl

theorem storedPayload_readBytes (n : Nat) (hn : n ≤ out.length) :
    (storedPayload s v out len k).mem.readBytes s.dstAddr.toNat n = out.take n :=
  Memory.readBytes_writeBytes_take s.mem s.dstAddr.toNat out n hn

theorem storedPayload_read_outside (a : Nat) (ha : a < s.dstAddr.toNat ∨ s.dstAddr.toNat + out.length ≤ a) :
    (storedPayload s v out len k).mem.read a = s.mem.read a := by
  refine Memory.read_writeBytes_of_not_has s.mem (dstRegion s out.length) out rfl a ?_
  simp only [← Bool.not_eq_true, has_iff, dstRegion]
  omega

end StoredPayload

/-- Regions that share no address, in arithmetic (R42). -/
theorem overlaps_eq_false_iff (r t : Region) : r.overlaps t = false ↔ ¬meet r.base r.len t.base t.len := by
  rw [← Bool.not_eq_true, overlaps_iff]

/-- What holds of every region ENC reads (R103). -/
theorem forall_mem_encReads (ivs : Bool) (s : State) (P : Region → Prop) :
    (∀ r ∈ encReads ivs s, P r) ↔ P (srcRegion s) ∧ (ivs = true → P (ivRegion s)) := by
  cases ivs <;> simp [encReads]

/-- ENC's region checks in arithmetic, for a supplied header of `h` bytes (R42, R103). -/
theorem enc_regionsOk_iff (ivs : Bool) (s : State) (n h : Nat) (hiv : ivs = true → s.ivLen.toNat = h) :
    regionsOk s (encReads ivs s) (dstRegion s n) = true ↔
      s.srcAddr.toNat + s.srcLen.toNat ≤ s.platform.memSize ∧
        (ivs = true → s.ivAddr.toNat + h ≤ s.platform.memSize) ∧
        s.dstAddr.toNat + n ≤ s.platform.memSize ∧ n ≤ s.dstCap.toNat ∧
        ¬meet s.dstAddr.toNat n s.srcAddr.toNat s.srcLen.toNat ∧
        (ivs = true → ¬meet s.dstAddr.toNat n s.ivAddr.toNat h) := by
  have hregion : ivs = true → ivRegion s = ⟨s.ivAddr.toNat, h⟩ := fun hivs => by rw [ivRegion, hiv hivs]
  simp +contextual only [regionsOk_iff, overlaps_eq_false_iff, forall_mem_encReads, hregion, dstRegion, srcRegion]
  tauto

/-- The numbers of the wire versions are 1 to 5 (R102). -/
theorem Version.ofNumber_eq_none (n : Nat) (h : n ∉ [1, 2, 3, 4, 5]) : Version.ofNumber n = none := by
  unfold Version.ofNumber
  split <;> simp_all

/-- A wire version reports the number it was named by (R102, R117). -/
theorem Version.number_toNat_of_ofNumber (n : Nat) (v : Version) (h : Version.ofNumber n = some v) : v.number.toNat = n := by
  unfold Version.ofNumber at h
  split at h <;> cases h <;> rfl

section EncVersion
variable (ver : Nat) (ivs : Bool) (s : State) (v : Version)

/-- ENC's first check (R103). -/
theorem encVersion_invalidVersion (h : Version.ofNumber (effVer ver s.ctrl) = none) :
    encVersion ver ivs s = .error .invalidVersion := by
  simp [encVersion, h]

variable (hv : Version.ofNumber (effVer ver s.ctrl) = some v)
include hv

/-- ENC's second check (R103). -/
theorem encVersion_invalidInput (hlen : s.srcLen.toNat = 0) : encVersion ver ivs s = .error .invalidInput := by
  rw [encVersion, hv]
  exact if_pos hlen

/-- ENC's third check (R103). -/
theorem encVersion_invalidIv (hlen : s.srcLen.toNat ≠ 0) (hivs : ivs = true) (hiv : s.ivLen.toNat ≠ v.headerLen) :
    encVersion ver ivs s = .error .invalidIv := by
  rw [encVersion, hv]
  exact (if_neg hlen).trans (if_pos ⟨hivs, hiv⟩)

/-- ENC's checks before its regions pass (R103). -/
theorem encVersion_pass (hlen : s.srcLen.toNat ≠ 0) (hiv : ivs = true → s.ivLen.toNat = v.headerLen) :
    encVersion ver ivs s = .ok v := by
  rw [encVersion, hv]
  exact (if_neg hlen).trans (if_neg fun hbad => hbad.2 (hiv hbad.1))

end EncVersion

/-- The header ENC uses: the IV region's bytes, or a draw (R104). -/
theorem encHeader_fst (ivs : Bool) (n : Nat) (s : State) :
    (encHeader ivs n s).1 =
      if ivs then s.mem.readBytes s.ivAddr.toNat n else freeBytes Config.entropyByte s.draws n := by
  cases ivs <;> rfl

/-- The payload ENC makes in `s` under the version `v` (R103, R104). -/
def encOutput (c : Config.Collaborators) (v : Version) (ivs useB : Bool) (s : State) : List Byte :=
  encodePayload c s.platform.v2Trailer v (s.mem.readBytes s.srcAddr.toNat s.srcLen.toNat)
    (encHeader ivs v.headerLen s).1 useB s.ctrl.tagGen

theorem encOutput_length (c : Config.Collaborators) (v : Version) (ivs useB : Bool) (s : State) :
    (encOutput c v ivs useB s).length = v.payloadLen s.srcLen.toNat :=
  (encodePayload_length c _ v _ _ useB _ (by simp)).trans (by simp)

/-- The state a successful ENC leaves (R103). -/
def afterEnc (c : Config.Collaborators) (v : Version) (ivs useB : Bool) (s : State) : State :=
  storedPayload s v (encOutput c v ivs useB s) (v.payloadLen s.srcLen.toNat)
    (if ivs then s.draws else s.draws + v.headerLen)

theorem encWith_eq_afterEnc (c : Config.Collaborators) (ver : Nat) (ivs useB : Bool) (s : State) (v : Version)
    (hv : encVersion ver ivs s = .ok v)
    (hok : regionsOk s (encReads ivs s) (dstRegion s (v.payloadLen s.srcLen.toNat)) = true)
    (hb : s.hung.blocks v.encodeCalls = false) : encWith c ver ivs useB s = .next (afterEnc c v ivs useB s) := by
  rw [encWith_done c ver ivs useB s v hv hok hb, encHeader_draws]
  rfl

/-- The payload read back from where a successful ENC wrote it (R103). -/
theorem afterEnc_readBytes (c : Config.Collaborators) (v : Version) (ivs useB : Bool) (s : State) :
    (afterEnc c v ivs useB s).mem.readBytes s.dstAddr.toNat (v.payloadLen s.srcLen.toNat) = encOutput c v ivs useB s := by
  have hlen := encOutput_length c v ivs useB s
  rw [afterEnc, storedPayload_readBytes _ _ _ _ _ _ hlen.ge, ← hlen, List.take_length]

/-- Settles O25: the conditions are ENC's checks in arithmetic, so it succeeds. -/
theorem encCompletes : Obligations.EncCompletes := by
  intro ver ivs tagb s v hv hlen hiv hsrc hivIn hdst hcap hapart hivApart hb
  have hver := encVersion_pass ver ivs s v hv hlen.ne' hiv
  have hok := (enc_regionsOk_iff ivs s (v.payloadLen s.srcLen.toNat) v.headerLen hiv).mpr
    ⟨hsrc, hivIn, hdst, hcap, hapart, hivApart⟩
  refine ⟨afterEnc Config.collaborators v ivs tagb s, _, encWith_eq_afterEnc _ ver ivs tagb s v hver hok hb, rfl,
    storedPayload_eq s v _ _ _, ?_, fun a ha => ?_⟩
  · rw [afterEnc_readBytes, encOutput, encHeader_fst]
  · exact storedPayload_read_outside s v _ _ _ a ((encOutput_length _ v ivs tagb s).symm ▸ ha)

/-- Settles O26: each clause is the failure of one check of ENC, those before it passed. -/
theorem encErrors : Obligations.EncErrors := by
  intro ver ivs tagb s
  have herror : ∀ e, encVersion ver ivs s = .error e → exec (.enc ver ivs tagb) s = .next (s.failed e.code) := fun e h =>
    (encWith_error _ ver ivs tagb s e h).trans (congrArg _ (abort_eq_failed e s))
  refine ⟨fun hnone => ?_, fun v hv => ⟨fun hlen => ?_, fun hlen hivs hiv => ?_, fun hlen hiv hbad => ?_⟩⟩
  · exact herror _ (encVersion_invalidVersion ver ivs s (Version.ofNumber_eq_none _ hnone))
  · exact herror _ (encVersion_invalidInput ver ivs s v hv hlen)
  · exact herror _ (encVersion_invalidIv ver ivs s v hv hlen hivs hiv)
  · have hnot : regionsOk s (encReads ivs s) (dstRegion s (v.payloadLen s.srcLen.toNat)) = false := by
      rw [← Bool.not_eq_true, enc_regionsOk_iff ivs s _ v.headerLen hiv]
      rintro ⟨hsrc, hivIn, hdst, hcap, hapart, hivApart⟩
      rcases hbad with h | ⟨hivs, h⟩ | h | h | h | ⟨hivs, h⟩
      · omega
      · exact absurd (hivIn hivs) (by omega)
      · omega
      · omega
      · exact hapart h
      · exact hivApart hivs h
    rw [exec, execEnc, encWith_regionFault _ ver ivs tagb s v (encVersion_pass ver ivs s v hv hlen hiv) hnot]
    exact congrArg _ (abort_eq_failed .regionFault s)

end Sys2Proof.Machine
end

section
/-! PROOFS. The layout of a payload, and that Decode undoes Encode (R101, R105 to R108, R112 to R116, R118). -/

namespace Sys2Proof.Machine

/-- The body of a payload, for version 5 before obfuscation (R105 to R107). -/
def Version.body (c : Config.Collaborators) (m hdr : List Byte) : Version → List Byte
  | .v1 => bodyIv c m hdr
  | .v2 => bodyIv c m hdr
  | .v3 => bodyLcg c m hdr
  | .v4 => bodyCipher c m hdr
  | .v5 => bodyCipher c m hdr

theorem pad_length_eq (m : List Byte) : (pad m).length = paddedLen m.length := by
  rw [pad_length, padLen, paddedLen]
  omega

/-- A padded plaintext is a whole number of blocks of either cipher (R84, R88). -/
theorem pad_length_mod_block (m : List Byte) (b : Nat) (hb : 256 % b = 0) : (pad m).length % b = 0 :=
  Nat.mod_eq_zero_of_dvd ((Nat.dvd_of_mod_eq_zero hb).trans (Nat.dvd_of_mod_eq_zero (pad_length_mod m)))

theorem rotBlock_length_of_iv (iv : List Byte) (h : iv.length = 32) : (rotBlock iv).length = 256 := by
  rw [rotBlock_length, h]

theorem Version.body_length (c : Config.Collaborators) (m hdr : List Byte) (v : Version) (hh : hdr.length = v.headerLen) :
    (v.body c m hdr).length = paddedLen m.length := by
  rw [← pad_length_eq]
  cases v with
  | v1 | v2 => exact chainEnc_length _ 256 c.rotFwd_length _ _ (rotBlock_length_of_iv hdr hh) (pad_length_mod m)
  | v3 => exact chainEnc_length _ 256 c.rotFwd_length _ _ (lcgBlock_length _) (pad_length_mod m)
  | v4 | v5 => exact chainEnc_length _ 16 c.bcEnc_length _ _ (shortKey_length hdr) (pad_length_mod_block m 16 rfl)

theorem paddedLen_mod (n : Nat) : paddedLen n % 256 = 0 := by
  unfold paddedLen
  omega

/-- Settles O27: Encode is the header, the body and the trailer, and a body is whole blocks of 256 bytes. -/
theorem payloadLayout : Obligations.PayloadLayout := by
  intro c t v m hdr useB gen _ hh
  have hlen := Version.body_length c m hdr v hh
  have hmod := paddedLen_mod m.length
  refine ⟨v.body c m hdr, hlen, ?_⟩
  cases v with
  | v1 | v2 | v3 | v4 => exact ⟨rfl, by omega⟩
  | v5 => exact ⟨rfl, rfl, by omega⟩

section Slices
variable (hdr body : List Byte) (t : Byte) (n : Nat)

/-- All but the trailer (R112, R116). -/
theorem slice_before_trailer (p : List Byte) : slice (p ++ [t]) n ((p ++ [t]).length - 1) = slice p n p.length := by
  rw [List.length_append, List.length_singleton, Nat.add_sub_cancel, slice, slice, List.drop_append,
    List.take_append_of_le_length (by simp)]

variable (hn : hdr.length = n)
include hn

theorem slice_header : slice (hdr ++ body) 0 n = hdr := by
  rw [slice, List.drop_zero, Nat.sub_zero, ← hn, List.take_left]

theorem slice_behind_header : slice (hdr ++ body) n (hdr ++ body).length = body := by
  rw [slice, ← hn, List.drop_left, List.length_append, Nat.add_sub_cancel_left, List.take_length]

theorem slice_header_of_trailer : slice (hdr ++ body ++ [t]) 0 n = hdr := by
  rw [List.append_assoc, slice_header hdr _ n hn]

theorem slice_between : slice (hdr ++ body ++ [t]) n ((hdr ++ body ++ [t]).length - 1) = body := by
  rw [slice_before_trailer, slice_behind_header hdr body n hn]

end Slices

/-- Version 4 decodes its payload to the padded plaintext (R86, R115). -/
theorem decode4_payload (c : Config.Collaborators) (m hdr : List Byte) (hh : hdr.length = 4) :
    decode4 c (hdr ++ bodyCipher c m hdr ++ [tagC]) = pad m := by
  rw [decode4, slice_header_of_trailer hdr _ tagC 4 hh, slice_between hdr _ tagC 4 hh]
  exact chainInverse c.bcEnc c.bcDec 16 _ _ (by decide) c.bcEnc_length c.bcDec_bcEnc (shortKey_length hdr)
    (pad_length_mod_block m 16 rfl)

/-- The rotation shuffle's chain undone, from any initial keystream block (R86). -/
theorem chainDec_rotInv_rotFwd (c : Config.Collaborators) (k m : List Byte) (hk : k.length = 256) :
    chainDec c.rotInv 256 k (chainEnc c.rotFwd 256 k (pad m)) = pad m :=
  chainInverse c.rotFwd c.rotInv 256 k (pad m) (by decide) c.rotFwd_length c.rotInv_rotFwd hk (pad_length_mod m)

/-- The trailer Encode makes is one its header's seed gives (R93, R98). -/
theorem trailerAccepted_tag (seed : Word) (useB gen : Bool) :
    trailerAccepted (tag (trailerByte seed) useB gen) seed gen = true := by
  cases useB <;> simp [trailerAccepted, tag]

/-- Decode undoes Encode up to padding, under the same generation of tag A (R118). -/
theorem decodePayload_encodePayload (c : Config.Collaborators) (t : Byte) (v : Version) (m hdr : List Byte) (useB gen : Bool)
    (hh : hdr.length = v.headerLen) :
    decodePayload c gen v (encodePayload c t v m hdr useB gen) = .ok (pad m) := by
  cases v with
  | v1 =>
    rw [decodePayload, encodePayload, slice_header hdr _ 32 hh, slice_behind_header hdr _ 32 hh, bodyIv,
      chainDec_rotInv_rotFwd c _ m (rotBlock_length_of_iv hdr hh)]
  | v2 =>
    rw [decodePayload, encodePayload, slice_header_of_trailer hdr _ t 32 hh, slice_between hdr _ t 32 hh, bodyIv,
      chainDec_rotInv_rotFwd c _ m (rotBlock_length_of_iv hdr hh)]
  | v3 =>
    rw [decodePayload, encodePayload, decode3, slice_header_of_trailer hdr _ _ 4 hh, getD_length_sub_one_concat,
      trailerAccepted_tag, if_pos rfl, slice_between hdr _ _ 4 hh, bodyLcg,
      chainDec_rotInv_rotFwd c _ m (lcgBlock_length _)]
  | v4 => exact congrArg _ (decode4_payload c m hdr hh)
  | v5 =>
    rw [decodePayload, encodePayload, decode5, slice_before_trailer, slice, List.drop_zero, Nat.sub_zero,
      List.take_length, c.obf_obf, decode4_payload c m hdr hh]

/-- The family DEC's length dispatch gives a version (R109). -/
def Version.family : Version → Family
  | .v1 => .v1
  | .v2 => .v2
  | .v3 => .tagged
  | .v4 => .tagged
  | .v5 => .tagged

theorem Version.family_headerLen (v : Version) : v.family.headerLen = v.headerLen := by cases v <;> rfl

theorem Version.family_trailerLen (v : Version) : v.family.trailerLen = v.trailerLen := by cases v <;> rfl

/-- A payload is read as the version it was made under: the trailer of version 3 is no fixed tag (R95, R113). -/
theorem version_encodePayload (c : Config.Collaborators) (t : Byte) (v : Version) (m hdr : List Byte) (useB gen : Bool) :
    v.family.version (encodePayload c t v m hdr useB gen) = v := by
  cases v with
  | v1 | v2 => rfl
  | v3 => exact version_tagged_of_not_fixed _ _ (tag_not_fixed _ useB gen)
  | v4 => exact (version_tagged_concat _ tagC).trans (by decide)
  | v5 => exact (version_tagged_concat _ tagD).trans (by decide)

/-- Tag A keeps bit 4 of the PRNG byte in the newest generation alone (R93). -/
theorem tagA_getLsbD_four (b : Byte) (gen : Bool) : (tagA b gen).getLsbD 4 = (gen && b.getLsbD 4) := by
  cases gen <;> simp [tagA]

/-- Tags A and A′ have bit 3 set and tag B has it clear (R93). -/
theorem tagA_ne_tagB (b b' : Byte) (gen : Bool) : tagA b gen ≠ tagB b' := by
  intro h
  have hclear : (tagB b').getLsbD 3 = false := by simp [tagB]
  exact Bool.false_ne_true (hclear.symm.trans (h ▸ tag_getLsbD_tagMark b false gen))

/-- A tag A of one generation is no tag of the other where bit 4 of the PRNG byte is set (R99, R118). -/
theorem trailerAccepted_other_generation (seed : Word) (gen gen' : Bool) (hgen : gen' ≠ gen)
    (hbit : (trailerByte seed).getLsbD 4 = true) : trailerAccepted (tagA (trailerByte seed) gen) seed gen' = false := by
  rw [trailerAccepted_eq_false_iff]
  intro useB h
  cases useB with
  | true => exact tagA_ne_tagB _ _ gen h
  | false =>
    have hfour := congrArg (·.getLsbD 4) h
    simp only [tag, Bool.false_eq_true, if_false, tagA_getLsbD_four, hbit, Bool.and_true] at hfour
    exact hgen hfour.symm

end Sys2Proof.Machine
end

section
/-! PROOFS. DEC's completion and errors, and the version a payload reports (R98, R109 to R116, R124). -/

namespace Sys2Proof.Machine

/-- DEC's length checks in arithmetic (R109, R110). -/
theorem decFamily_eq_ok_iff (s : State) (fam : Family) :
    decFamily s = .ok fam ↔ s.srcLen.toNat % 256 = fam.headerLen + fam.trailerLen ∧ 256 ≤ s.srcLen.toNat := by
  constructor
  · intro h
    obtain ⟨hmin, hmod, -⟩ := decFamily_ok s fam h
    exact ⟨hmod, by omega⟩
  · rintro ⟨hmod, hmin⟩
    have hfam : Family.ofLength s.srcLen.toNat = some fam := by
      rw [Family.ofLength, hmod]
      cases fam <;> rfl
    rw [decFamily, hfam]
    refine if_neg ?_
    cases fam <;> simp only [Family.headerLen, Family.trailerLen] at hmod ⊢ <;> omega

/-- DEC's length checks pass for a family, or fail with InvalidLength (R109, R110). -/
theorem decFamily_cases (s : State) : decFamily s = .error .invalidLength ∨ ∃ fam, decFamily s = .ok fam := by
  unfold decFamily
  split
  · exact .inl rfl
  · next fam _ =>
    split_ifs
    · exact .inl rfl
    · exact .inr ⟨fam, rfl⟩

/-- A family's header and trailer are its residue (R109). -/
theorem Family.residue_mem (fam : Family) : fam.headerLen + fam.trailerLen ∈ [32, 33, 5] := by cases fam <;> decide

theorem Family.exists_of_residue (r : Nat) (h : r ∈ [32, 33, 5]) : ∃ fam : Family, r = fam.headerLen + fam.trailerLen := by
  simp only [List.mem_cons, List.not_mem_nil, or_false] at h
  rcases h with h | h | h
  · exact ⟨.v1, h⟩
  · exact ⟨.v2, h⟩
  · exact ⟨.tagged, h⟩

/-- DEC's `bodyLen` is the whole blocks of 256 bytes in the payload (R109, R111). -/
theorem bodyLen_eq (s : State) (fam : Family) (hf : decFamily s = .ok fam) :
    bodyLen fam s = s.srcLen.toNat - s.srcLen.toNat % 256 := by
  rw [bodyLen, ((decFamily_eq_ok_iff s fam).mp hf).1]
  omega

/-- DEC's region checks in arithmetic (R42, R111). -/
theorem dec_regionsOk_iff (s : State) (fam : Family) (hf : decFamily s = .ok fam) :
    regionsOk s [srcRegion s] (dstRegion s (bodyLen fam s)) = true ↔
      s.srcAddr.toNat + s.srcLen.toNat ≤ s.platform.memSize ∧
        s.dstAddr.toNat + (s.srcLen.toNat - s.srcLen.toNat % 256) ≤ s.platform.memSize ∧
        s.srcLen.toNat - s.srcLen.toNat % 256 ≤ s.dstCap.toNat ∧
        ¬meet s.dstAddr.toNat (s.srcLen.toNat - s.srcLen.toNat % 256) s.srcAddr.toNat s.srcLen.toNat := by
  rw [bodyLen_eq s fam hf]
  simpa [encReads] using enc_regionsOk_iff false s (s.srcLen.toNat - s.srcLen.toNat % 256) 0 (by simp)

/-- The trailer of the payload in memory (R111). -/
theorem Memory.readBytes_last (m : Memory) (a n : Nat) (hn : 0 < n) :
    (m.readBytes a n).getD ((m.readBytes a n).length - 1) 0 = m.read (a + (n - 1)) := by
  rw [Memory.readBytes_length, Memory.readBytes_getD m a n (n - 1) (by omega)]

/-- The first bytes of a MemRead (R41). -/
theorem Memory.take_readBytes (m : Memory) (a n k : Nat) (hk : k ≤ n) : (m.readBytes a n).take k = m.readBytes a k := by
  apply List.ext_getElem?
  intro i
  rw [List.getElem?_take, Memory.readBytes_getElem?, Memory.readBytes_getElem?]
  by_cases hi : i < k
  · simp [hi, show i < n by omega]
  · simp [hi]

/-- A payload fails to decode only as version 3, where its trailer is no tag of its seed (R98, R112 to R116). -/
theorem decodePayload_ok (c : Config.Collaborators) (gen : Bool) (v : Version) (p : List Byte)
    (h : v = .v3 → trailerAccepted (p.getD (p.length - 1) 0) (be32 (p.take 4)) gen = true) :
    ∃ out, decodePayload c gen v p = .ok out := by
  cases v with
  | v1 | v2 | v4 | v5 => exact ⟨_, rfl⟩
  | v3 => exact ⟨_, if_pos (h rfl)⟩

theorem decodePayload_v3_error (c : Config.Collaborators) (gen : Bool) (p : List Byte)
    (h : trailerAccepted (p.getD (p.length - 1) 0) (be32 (p.take 4)) gen = false) :
    decodePayload c gen .v3 p = .error .integrityFailure :=
  if_neg (Bool.eq_false_iff.mp h)

/-- The state a successful DEC leaves: the padded plaintext stored, and DST_LEN what Unpad keeps (R91, R111). -/
def afterDec (v : Version) (out : List Byte) (s : State) : State :=
  storedPayload s v out (unpad out).length s.draws

theorem decWith_eq_afterDec (c : Config.Collaborators) (s : State) (fam : Family) (p out : List Byte)
    (hp : p = s.mem.readBytes s.srcAddr.toNat s.srcLen.toNat) (hf : decFamily s = .ok fam)
    (hok : regionsOk s [srcRegion s] (dstRegion s (bodyLen fam s)) = true)
    (hd : decodePayload c s.ctrl.tagGen (fam.version p) p = .ok out)
    (hb : s.hung.blocks (fam.version p).decodeCalls = false) :
    decWith c s = .next (afterDec (fam.version p) out s) := by
  have hlen := decodePayload_length c _ s fam hf p out (by simp [hp]) hd
  rw [decWith_done c s fam p hp out hf hok hd hb, ← hlen, ← unpad_length]
  rfl

/-- Settles O28: the conditions are DEC's checks in arithmetic, so it succeeds. -/
theorem decCompletes : Obligations.DecCompletes := by
  intro s fam p hfam hp hsrc hdst hcap hapart htrailer hb
  have hf : decFamily s = .ok fam := by
    rw [decFamily_eq_ok_iff]
    rcases hfam with ⟨rfl, hmod, hmin⟩ | ⟨rfl, hmod, hmin⟩ | ⟨rfl, hmod, hmin⟩ <;> exact ⟨hmod, by omega⟩
  have hpos : 0 < s.srcLen.toNat := by omega
  have hok := (dec_regionsOk_iff s fam hf).mpr ⟨hsrc, hdst, hcap, hapart⟩
  have hlast : p.getD (p.length - 1) 0 = s.mem.read (s.srcAddr.toNat + (s.srcLen.toNat - 1)) := by
    rw [hp, Memory.readBytes_last _ _ _ hpos]
  obtain ⟨out, hd⟩ := decodePayload_ok Config.collaborators s.ctrl.tagGen (fam.version p) p fun h3 => by
    rw [hlast]
    exact htrailer h3
  have hlen := decodePayload_length _ _ s fam hf p out (by simp [hp]) hd
  refine ⟨afterDec (fam.version p) out s, out, decWith_eq_afterDec _ s fam p out hp hf hok hd hb, hd, hlen.trans (bodyLen_eq s fam hf),
    ?_, ?_, storedPayload_read_outside s _ out _ _⟩
  · rw [← padByte, ← unpad_length]
    exact storedPayload_eq s _ out _ _
  · rw [afterDec, storedPayload_readBytes _ _ _ _ _ _ le_rfl, List.take_length]

/-- Which trailers make a payload of the versions 3 to 5 an IntegrityFailure: neither fixed tag and neither tag of its seed (R98, R113,
R114). -/
theorem decodePayload_tagged_error (c : Config.Collaborators) (gen : Bool) (p : List Byte)
    (h : p.getD (p.length - 1) 0 ∉
      [0x21, 0x23, tagA (trailerByte (be32 (p.take 4))) gen, tagB (trailerByte (be32 (p.take 4)))]) :
    decodePayload c gen (Family.version .tagged p) p = .error .integrityFailure := by
  simp only [List.mem_cons, List.not_mem_nil, or_false, not_or] at h
  obtain ⟨hC, hD, hA, hB⟩ := h
  have hv : Family.version .tagged p = .v3 := (if_neg hD).trans (if_neg hC)
  rw [hv]
  refine decodePayload_v3_error c gen p ((trailerAccepted_eq_false_iff _ _ _).mpr fun useB => ?_)
  cases useB with
  | true => exact hB
  | false => exact hA

/-- Settles O29: each clause is the failure of one check of DEC, those before it passed. -/
theorem decErrors : Obligations.DecErrors := by
  intro s
  refine ⟨fun hbad => ?_, fun hres hmin => ?_⟩
  · rcases decFamily_cases s with h | ⟨fam, h⟩
    · exact (decWith_error _ s _ h).trans (congrArg _ (abort_eq_failed .invalidLength s))
    · obtain ⟨hmod, hmin⟩ := (decFamily_eq_ok_iff s fam).mp h
      rcases hbad with hres | hshort
      · exact absurd (hmod ▸ fam.residue_mem) hres
      · simp only [List.mem_cons, List.not_mem_nil, or_false] at hshort
        omega
  · refine ⟨fun hbad => ?_, fun h5 hsrc hdst hcap hapart htrailer => ?_⟩
    · obtain ⟨fam, hmod⟩ := Family.exists_of_residue _ hres
      have hf : decFamily s = .ok fam := (decFamily_eq_ok_iff s fam).mpr ⟨hmod, hmin⟩
      have hnot : regionsOk s [srcRegion s] (dstRegion s (bodyLen fam s)) = false := by
        rw [← Bool.not_eq_true, dec_regionsOk_iff s fam hf]
        rintro ⟨hsrc, hdst, hcap, hapart⟩
        rcases hbad with h | h | h | h
        · omega
        · omega
        · omega
        · exact hapart h
      exact (decWith_regionFault _ s fam hf hnot).trans (congrArg _ (abort_eq_failed .regionFault s))
    · have hf : decFamily s = .ok .tagged := (decFamily_eq_ok_iff s .tagged).mpr ⟨h5, hmin⟩
      have hok := (dec_regionsOk_iff s .tagged hf).mpr ⟨hsrc, hdst, hcap, hapart⟩
      rw [← Memory.readBytes_last _ _ _ (by omega), ← Memory.take_readBytes _ _ s.srcLen.toNat 4 (by omega)] at htrailer
      have hd := decodePayload_tagged_error Config.collaborators s.ctrl.tagGen _ htrailer
      exact (decWith_decodeError _ s .tagged _ rfl _ hf hok hd).trans (congrArg _ (abort_eq_failed .integrityFailure s))

end Sys2Proof.Machine
end

section
/-! PROOFS. What a successful ENC or DEC was, the version each completion reports, that both are functions of their inputs, and the round
trip (R117 to R119). -/

namespace Sys2Proof.Machine

theorem ErrorCode.code_ne_zero (e : ErrorCode) : e.code ≠ 0 := by cases e <;> decide

/-- An ENC that ended with code 0 passed its checks and stored its payload, unless it is stuck (R82, R103). -/
theorem encWith_success (c : Config.Collaborators) (ver : Nat) (ivs useB : Bool) (s t : State)
    (h : encWith c ver ivs useB s = .next t) (he : t.status.ecode = 0) (hreturn : t = s → s.hung.none) :
    ∃ v, encVersion ver ivs s = .ok v ∧
      regionsOk s (encReads ivs s) (dstRegion s (v.payloadLen s.srcLen.toNat)) = true ∧ t = afterEnc c v ivs useB s := by
  rcases encWith_cases c ver ivs useB s with ⟨e, -, h'⟩ | ⟨v, hv, ⟨-, h'⟩ | ⟨hok, ⟨hb, h'⟩ | ⟨hb, -⟩⟩⟩
  · cases h.symm.trans h'
    exact absurd he e.code_ne_zero
  · cases h.symm.trans h'
    exact absurd he (ErrorCode.code_ne_zero .regionFault)
  · cases h.symm.trans h'
    simp [s.hung.blocks_eq_false (hreturn rfl)] at hb
  · exact ⟨v, hv, hok, Host.Outcome.next.inj (h.symm.trans (encWith_eq_afterEnc c ver ivs useB s v hv hok hb))⟩

/-- A DEC that ended with code 0 passed its checks and stored what its payload decodes to, unless it is stuck (R82, R111). -/
theorem decWith_success (c : Config.Collaborators) (s t : State) (p : List Byte)
    (hp : p = s.mem.readBytes s.srcAddr.toNat s.srcLen.toNat) (h : decWith c s = .next t) (he : t.status.ecode = 0)
    (hreturn : t = s → s.hung.none) :
    ∃ fam out, decFamily s = .ok fam ∧ decodePayload c s.ctrl.tagGen (fam.version p) p = .ok out ∧
      t = afterDec (fam.version p) out s := by
  subst hp
  rcases decWith_cases c s with
    ⟨e, -, h'⟩ | ⟨fam, hf, ⟨-, h'⟩ | ⟨hok, ⟨e, -, h'⟩ | ⟨out, hd, ⟨hb, h'⟩ | ⟨hb, -⟩⟩⟩⟩
  · cases h.symm.trans h'
    exact absurd he e.code_ne_zero
  · cases h.symm.trans h'
    exact absurd he (ErrorCode.code_ne_zero .regionFault)
  · cases h.symm.trans h'
    exact absurd he e.code_ne_zero
  · cases h.symm.trans h'
    simp [s.hung.blocks_eq_false (hreturn rfl)] at hb
  · exact ⟨fam, out, hf, hd, Host.Outcome.next.inj (h.symm.trans (decWith_eq_afterDec c s fam _ out rfl hf hok hd hb))⟩

/-- The trailer's byte gives the number of the versions 3 to 5 (R113). -/
theorem version_tagged_number (p : List Byte) :
    (Family.version .tagged p).number.toNat =
      if p.getD (p.length - 1) 0 = 0x23 then 5 else if p.getD (p.length - 1) 0 = 0x21 then 4 else 3 := by
  rw [Family.version]
  split
  · next hD => exact (if_pos hD).symm
  · next hD =>
    split
    · next hC => exact ((if_neg hD).trans (if_pos hC)).symm
    · next hC => exact ((if_neg hD).trans (if_neg hC)).symm

/-- The version DEC reports, by the payload's length and its trailer (R109, R113). -/
theorem version_number_toNat (s : State) (fam : Family) (hf : decFamily s = .ok fam) :
    (fam.version (s.mem.readBytes s.srcAddr.toNat s.srcLen.toNat)).number.toNat =
      if s.srcLen.toNat % 256 = 32 then 1
      else if s.srcLen.toNat % 256 = 33 then 2
      else if s.mem.read (s.srcAddr.toNat + (s.srcLen.toNat - 1)) = 0x23 then 5
      else if s.mem.read (s.srcAddr.toNat + (s.srcLen.toNat - 1)) = 0x21 then 4
      else 3 := by
  obtain ⟨hmod, hmin⟩ := (decFamily_eq_ok_iff s fam).mp hf
  rw [hmod]
  cases fam with
  | v1 | v2 => rfl
  | tagged =>
    rw [version_tagged_number, Memory.readBytes_last _ _ _ (by omega)]
    rfl

/-- No command but ENC and DEC reports a version (R117). -/
theorem exec_stage_dver (i : Instr) (s t : State) (h : exec i s = .next t) (hdec : i ≠ .dec)
    (henc : ∀ ver ivs tagb, i ≠ .enc ver ivs tagb) : t.status.dver = 0 := by
  cases i with
  | nop | lcgSeed | lcgNext | lcgTag _ =>
    cases h
    rfl
  | lcgBlock =>
    rcases execLcgBlock_cases s with ⟨-, h'⟩ | ⟨-, h'⟩
    all_goals
      cases h.symm.trans h'
      rfl
  | rotBlock =>
    rcases execRotBlock_cases s with ⟨-, -, h'⟩ | ⟨-, -, h'⟩ | ⟨-, h'⟩
    all_goals
      cases h.symm.trans h'
      rfl
  | enc ver ivs tagb => exact absurd rfl (henc ver ivs tagb)
  | dec => exact absurd rfl hdec

/-- The completion of a word that is neither ENC nor DEC reports no version (R60, R117). -/
theorem engineTurn_stage_dver (s t : State) (w : Word) (hs : s.seq = .busy w) (h : engineTurn s = .next t)
    (hdec : decode w ≠ .ok .dec) (henc : ∀ ver ivs tagb, decode w ≠ .ok (.enc ver ivs tagb)) : t.status.dver = 0 := by
  cases hd : decode w with
  | ok i =>
    rw [engineTurn_busy s w i hs hd] at h
    rw [hd] at hdec henc
    exact exec_stage_dver i s t h (fun hi => hdec (congrArg _ hi)) fun ver ivs tagb hi => henc ver ivs tagb (congrArg _ hi)
  | error e =>
    simp only [engineTurn, hs, hd] at h
    cases h
    rfl

/-- Settles O30: a completion is a success of ENC or of DEC, an error, or another command's. -/
theorem completionReportsVersion : Obligations.CompletionReportsVersion := by
  intro s t w rest hs hnext hstep hidle
  have hturn := (step_of_engineNext s rest hnext).symm.trans hstep
  have hmoved : t ≠ { s with inputs := rest } := by
    rintro rfl
    simp [hs] at hidle
  refine ⟨fun ver ivs tagb hd he => ?_, fun hd he => ?_, ?_⟩
  · have h := (engineTurn_busy { s with inputs := rest } w _ hs hd).symm.trans hturn
    obtain ⟨v, hv, -, rfl⟩ := encWith_success _ ver ivs tagb _ t h he fun hsame => absurd hsame hmoved
    exact Version.number_toNat_of_ofNumber _ v (encVersion_ok ver ivs _ v hv)
  · have h := (engineTurn_busy { s with inputs := rest } w _ hs hd).symm.trans hturn
    obtain ⟨fam, out, hf, -, rfl⟩ := decWith_success _ _ t _ rfl h he fun hsame => absurd hsame hmoved
    exact version_number_toNat _ fam hf
  · rintro (he | ⟨hdec, henc⟩)
    · obtain ⟨u, hu, hc | ⟨hstuck, -⟩⟩ := engineTurn_completes { s with inputs := rest } w hs
      · cases hu.symm.trans hturn
        obtain ⟨code, dver, hstatus, -, -, hver⟩ := hc.status
        rw [hstatus] at he ⊢
        exact hver he
      · exact absurd ((Host.Outcome.next.inj (hturn.symm.trans hu)).trans hstuck) hmoved
    · exact engineTurn_stage_dver { s with inputs := rest } t w hs hturn hdec henc

/-- DEC's family and `bodyLen` are functions of SRC_LEN (R109, R111). -/
theorem decFamily_congr (s u : State) (h : u.srcLen = s.srcLen) : decFamily u = decFamily s := by
  rw [decFamily, decFamily, h]

/-- ENC's payload is a function of its source bytes, header, version, TAGB, TAGGEN and V2_TRAILER (R119). -/
theorem encOutput_congr (c : Config.Collaborators) (v : Version) (ivs ivs' useB : Bool) (s u : State)
    (hgen : u.ctrl.tagGen = s.ctrl.tagGen) (htrailer : u.platform.v2Trailer = s.platform.v2Trailer)
    (hsrc : u.mem.readBytes u.srcAddr.toNat u.srcLen.toNat = s.mem.readBytes s.srcAddr.toNat s.srcLen.toNat)
    (hhdr : (encHeader ivs' v.headerLen u).1 = (encHeader ivs v.headerLen s).1) :
    encOutput c v ivs' useB u = encOutput c v ivs useB s := by
  rw [encOutput, encOutput, hgen, htrailer, hsrc, hhdr]

/-- DST_LEN of a successful ENC is its payload's length, which fits DST_CAP (R29, R103). -/
theorem afterEnc_dstLen_toNat (c : Config.Collaborators) (v : Version) (ivs useB : Bool) (s : State)
    (hok : regionsOk s (encReads ivs s) (dstRegion s (v.payloadLen s.srcLen.toNat)) = true) :
    (afterEnc c v ivs useB s).dstLen.toNat = v.payloadLen s.srcLen.toNat := by
  have hcap : v.payloadLen s.srcLen.toNat ≤ s.dstCap.toNat := ((regionsOk_iff s _ _).mp hok).1
  have hmax := s.dstCap.isLt
  rw [afterEnc, storedPayload_dstLen, BitVec.toNat_ofNat, Nat.mod_eq_of_lt (by omega)]

/-- The bytes a successful ENC wrote are its payload (R103). -/
theorem afterEnc_written (c : Config.Collaborators) (v : Version) (ivs useB : Bool) (s : State)
    (hok : regionsOk s (encReads ivs s) (dstRegion s (v.payloadLen s.srcLen.toNat)) = true) :
    (afterEnc c v ivs useB s).mem.readBytes s.dstAddr.toNat (afterEnc c v ivs useB s).dstLen.toNat =
      encOutput c v ivs useB s := by
  rw [afterEnc_dstLen_toNat c v ivs useB s hok, afterEnc_readBytes]

/-- The bytes a successful DEC wrote are the padded plaintext (R111). -/
theorem afterDec_readBytes (v : Version) (out : List Byte) (s : State) (n : Nat) (hn : out.length = n) :
    (afterDec v out s).mem.readBytes s.dstAddr.toNat n = out := by
  rw [afterDec, storedPayload_readBytes _ _ _ _ _ _ hn.ge, ← hn, List.take_length]

/-- A DEC of a payload's length that does not end with RegionFault passed its region checks (R111). -/
theorem dec_regionsOk_of_ecode (c : Config.Collaborators) (s t : State) (fam : Family) (hf : decFamily s = .ok fam)
    (h : decWith c s = .next t) (h7 : t.status.ecode ≠ 7) :
    regionsOk s [srcRegion s] (dstRegion s (bodyLen fam s)) = true := by
  by_contra hbad
  cases h.symm.trans (decWith_regionFault c s fam hf (Bool.eq_false_iff.mpr hbad))
  exact h7 rfl

/-- Settles O33: two successful ENCs store the same payload, and two DECs past their region checks decode the same bytes alike. -/
theorem codecIsAFunctionOfItsInputs : Obligations.CodecIsAFunctionOfItsInputs := by
  constructor
  · intro ver ver' ivs ivs' useB s u t x v hs hu ht hx htok hxok hv hver hgen htrailer hlen hsrc hhdr
    obtain ⟨v₁, hv₁, hok, rfl⟩ := encWith_success _ ver ivs useB s t ht htok fun _ => hs
    obtain ⟨v₂, hv₂, hok', rfl⟩ := encWith_success _ ver' ivs' useB u x hx hxok fun _ => hu
    obtain rfl : v₁ = v := Option.some.inj ((encVersion_ok ver ivs s v₁ hv₁).symm.trans hv)
    obtain rfl : v₂ = v₁ := Option.some.inj ((encVersion_ok ver' ivs' u v₂ hv₂).symm.trans (hver ▸ hv))
    refine ⟨?_, rfl, ?_⟩
    · rw [afterEnc, afterEnc, storedPayload_dstLen, storedPayload_dstLen, hlen]
    · rw [afterEnc_written _ v₂ ivs' useB u hok', afterEnc_written _ v₂ ivs useB s hok]
      exact encOutput_congr _ v₂ ivs ivs' useB s u hgen htrailer hsrc hhdr
  · intro s u t x hs hu ht hx ht7 hx7 hgen hlen hsrc
    have hfu := decFamily_congr s u hlen
    cases hf : decFamily s with
    | error e =>
      cases ht.symm.trans (decWith_error _ s e hf)
      cases hx.symm.trans (decWith_error _ u e (hfu.trans hf))
      exact ⟨rfl, rfl, rfl, fun he => absurd he e.code_ne_zero⟩
    | ok fam =>
      have hok := dec_regionsOk_of_ecode _ s t fam hf ht ht7
      have hok' := dec_regionsOk_of_ecode _ u x fam (hfu.trans hf) hx hx7
      cases hd : decodePayload Config.collaborators s.ctrl.tagGen
          (fam.version (s.mem.readBytes s.srcAddr.toNat s.srcLen.toNat))
          (s.mem.readBytes s.srcAddr.toNat s.srcLen.toNat) with
      | error e =>
        cases ht.symm.trans (decWith_decodeError _ s fam _ rfl e hf hok hd)
        cases hx.symm.trans (decWith_decodeError _ u fam _ hsrc.symm e (hfu.trans hf) hok' (hgen ▸ hd))
        exact ⟨rfl, rfl, rfl, fun he => absurd he e.code_ne_zero⟩
      | ok out =>
        have hout := (decodePayload_length _ _ s fam hf _ out (by simp) hd).trans (bodyLen_eq s fam hf)
        cases ht.symm.trans (decWith_eq_afterDec _ s fam _ out rfl hf hok hd (s.hung.blocks_eq_false hs _))
        cases hx.symm.trans (decWith_eq_afterDec _ u fam _ out hsrc.symm (hfu.trans hf) hok' (hgen ▸ hd)
          (u.hung.blocks_eq_false hu _))
        refine ⟨rfl, rfl, rfl, fun _ => ?_⟩
        rw [afterDec_readBytes _ out u _ hout, afterDec_readBytes _ out s _ hout]

end Sys2Proof.Machine
end

section
/-! PROOFS. The round trip: a DEC of what an ENC wrote (R101, R118). -/

namespace Sys2Proof.Machine

/-- A payload is whole blocks of 256 bytes behind its header and before its trailer (R101). -/
theorem Version.payloadLen_mod (v : Version) (n : Nat) :
    v.payloadLen n % 256 = v.family.headerLen + v.family.trailerLen := by
  have hmod := paddedLen_mod n
  cases v <;> simp only [payloadLen, headerLen, trailerLen, family, Family.headerLen, Family.trailerLen] <;> omega

theorem Version.paddedLen_of_payloadLen (v : Version) (n : Nat) :
    v.payloadLen n - v.payloadLen n % 256 = paddedLen n := by
  rw [payloadLen_mod, family_headerLen, family_trailerLen, payloadLen]
  omega

theorem Version.eq_v3_of_number (v : Version) (h : v.number = 3) : v = .v3 := by
  cases v with
  | v3 => rfl
  | v1 | v2 | v4 | v5 => exact absurd h (by decide)

theorem le_paddedLen (n : Nat) : 256 ≤ paddedLen n := by
  unfold paddedLen
  omega

/-- ENC with an empty plaintext fails (R103). -/
theorem encVersion_ok_srcLen (ver : Nat) (ivs : Bool) (s : State) (v : Version) (h : encVersion ver ivs s = .ok v) :
    s.srcLen.toNat ≠ 0 := by
  intro h0
  cases h.symm.trans (encVersion_invalidInput ver ivs s v (encVersion_ok ver ivs s v h) h0)

/-- Unpad keeps the first bytes (R91). -/
theorem take_unpad_length (p : List Byte) : p.take (unpad p).length = unpad p := by
  rw [unpad_length, unpad]

/-- The bytes DEC's DST_LEN counts are what Unpad keeps (R91, R111). -/
theorem afterDec_unpadded (v : Version) (out : List Byte) (u : State) (hcap : out.length ≤ u.dstCap.toNat) :
    (afterDec v out u).mem.readBytes u.dstAddr.toNat (afterDec v out u).dstLen.toNat = unpad out := by
  have hle : (unpad out).length ≤ out.length := by
    rw [unpad_length]
    omega
  have hmax := u.dstCap.isLt
  have hlen : (afterDec v out u).dstLen.toNat = (unpad out).length := by
    rw [afterDec, storedPayload_dstLen, BitVec.toNat_ofNat, Nat.mod_eq_of_lt (by omega)]
  rw [hlen, afterDec, storedPayload_readBytes _ _ _ _ _ _ hle, take_unpad_length]

/-- DEC of a payload of ENC's length passes its length checks (R109, R110). -/
theorem decFamily_of_payloadLen (u : State) (v : Version) (n : Nat) (hlen : u.srcLen.toNat = v.payloadLen n) :
    decFamily u = .ok v.family := by
  rw [decFamily_eq_ok_iff, hlen]
  refine ⟨v.payloadLen_mod n, ?_⟩
  have hmin := le_paddedLen n
  rw [Version.payloadLen]
  omega

/-- DEC of ENC's payload under the same TAGGEN gives the padded plaintext (R118). -/
theorem decWith_encOutput (c : Config.Collaborators) (s u : State) (v : Version) (ivs useB : Bool)
    (hlen : u.srcLen.toNat = v.payloadLen s.srcLen.toNat)
    (hp : encOutput c v ivs useB s = u.mem.readBytes u.srcAddr.toNat u.srcLen.toNat)
    (hok : regionsOk u [srcRegion u] (dstRegion u (bodyLen v.family u)) = true)
    (hgen : u.ctrl.tagGen = s.ctrl.tagGen) (hu : u.hung.none) :
    decWith c u = .next (afterDec v (pad (s.mem.readBytes s.srcAddr.toNat s.srcLen.toNat)) u) := by
  have hver : v.family.version (encOutput c v ivs useB s) = v := version_encodePayload c _ v _ _ useB _
  have hd : decodePayload c u.ctrl.tagGen (v.family.version (encOutput c v ivs useB s)) (encOutput c v ivs useB s) =
      .ok (pad (s.mem.readBytes s.srcAddr.toNat s.srcLen.toNat)) := by
    rw [hver, hgen]
    exact decodePayload_encodePayload c _ v _ _ useB _ (encHeader_fst_length ivs _ s)
  rw [decWith_eq_afterDec c u v.family _ _ hp (decFamily_of_payloadLen u v _ hlen) hok hd
    (u.hung.blocks_eq_false hu _), hver]

/-- DEC of a version-3 payload with tag A under the other TAGGEN is an IntegrityFailure where bit 4 of the PRNG byte is set (R118). -/
theorem decWith_encOutput_other_generation (c : Config.Collaborators) (s u : State) (ivs : Bool)
    (hlen : u.srcLen.toNat = Version.payloadLen .v3 s.srcLen.toNat)
    (hp : encOutput c .v3 ivs false s = u.mem.readBytes u.srcAddr.toNat u.srcLen.toNat)
    (hok : regionsOk u [srcRegion u] (dstRegion u (bodyLen .tagged u)) = true)
    (hgen : u.ctrl.tagGen ≠ s.ctrl.tagGen)
    (hbit : (trailerByte (be32 (u.mem.readBytes u.srcAddr.toNat 4))).getLsbD 4 = true) :
    decWith c u = .next (abort .integrityFailure u) := by
  have hh : (encHeader ivs 4 s).1.length = 4 := by simp
  have hhdr : u.mem.readBytes u.srcAddr.toNat 4 = (encHeader ivs 4 s).1 := by
    have hle : 4 ≤ u.srcLen.toNat := by
      rw [hlen, Version.payloadLen, Version.headerLen]
      omega
    rw [← Memory.take_readBytes _ _ _ 4 hle, ← hp]
    exact slice_header_of_trailer _ _ _ 4 hh
  have hver : Family.version .tagged (encOutput c .v3 ivs false s) = .v3 := version_encodePayload c _ .v3 _ _ false _
  refine decWith_decodeError c u .tagged _ hp _ (decFamily_of_payloadLen u .v3 _ hlen) hok ?_
  rw [hver]
  refine (decodePayload_v3_integrityFailure_iff c _ (encHeader ivs 4 s).1 _ _ hh).mpr ?_
  exact trailerAccepted_other_generation _ _ _ hgen (hhdr ▸ hbit)

/-- Settles O31: DEC's checks pass for a payload, and Decode undoes Encode; under the other generation the tag is refused. -/
theorem encDecRoundTrip : Obligations.EncDecRoundTrip := by
  intro ver ivs tagb s t u hs hu ht hok hlen hbytes hsrc hdst hcap hapart
  obtain ⟨v, hv, henc, rfl⟩ := encWith_success _ ver ivs tagb s t ht hok fun _ => hs
  have hp := (hbytes.trans (afterEnc_written _ v ivs tagb s henc)).symm
  have hlen' : u.srcLen.toNat = v.payloadLen s.srcLen.toNat := by rw [hlen, afterEnc_dstLen_toNat _ v ivs tagb s henc]
  have hdec : regionsOk u [srcRegion u] (dstRegion u (bodyLen v.family u)) = true := by
    rw [dec_regionsOk_iff u _ (decFamily_of_payloadLen u v _ hlen'), hlen', v.paddedLen_of_payloadLen, ← hlen']
    exact ⟨hsrc, hdst, hcap, hapart⟩
  refine ⟨fun hgen => ?_, fun hgen hdver htag hbit => ?_⟩
  · refine ⟨_, decWith_encOutput _ s u v ivs tagb hlen' hp hdec hgen hu, rfl, rfl, ?_⟩
    have hpos : 1 ≤ (s.mem.readBytes s.srcAddr.toNat s.srcLen.toNat).length := by
      have := encVersion_ok_srcLen ver ivs s v hv
      simp
      omega
    rw [afterDec_unpadded v _ u (by rw [pad_length_eq]; simpa using hcap)]
    split_ifs with hmod
    · exact padUnpadLaws.2.1 _ hpos (by simpa using hmod)
    · exact padUnpadLaws.1 _ hpos (by simpa using hmod)
  · subst htag
    obtain rfl := v.eq_v3_of_number hdver
    exact (decWith_encOutput_other_generation _ s u ivs hlen' hp hdec hgen hbit).trans
      (congrArg _ (abort_eq_failed .integrityFailure u))

end Sys2Proof.Machine
end

section
/-! PROOFS. What drops the interrupt, the turn of an IDLE engine, and what an error completion changes (R123, R126, R128, R135, R143). -/

namespace Sys2Proof.Machine

/-- The interrupt output is low while DONE or IE is 0 (R36). -/
theorem irq_eq_false_iff (s : State) : irq s = false ↔ s.status.done = false ∨ s.ctrl.ie = false :=
  Bool.and_eq_false_iff

/-- Settles O17: ACK and an acceptance clear DONE, and the write to CTRL clears IE. -/
theorem interruptIsCleared : Obligations.InterruptIsCleared := by
  intro s v rest
  refine ⟨fun hi => ?ack, fun hs hi => ?acceptance, fun hs hie hi => ?disable⟩
  case ack =>
    have hdone : (clearStatus 0x0000000A s.status).done = false := by simp
    exact ⟨_, step_csrWrite_offset s .status _ rest hi, (irq_eq_false_iff _).mpr (.inl hdone)⟩
  case acceptance => exact ⟨_, step_cmdWrite_idle s v rest hs hi, (irq_eq_false_iff _).mpr (.inl rfl)⟩
  case disable =>
    refine ⟨_, step_csrWrite_offset s .ctrl v rest hi, (irq_eq_false_iff _).mpr (.inr ?_)⟩
    rw [writeCsr, writeWhenIdle_idle { s with inputs := rest } _ hs]
    exact hie

/-- Settles O18: the step is the engine's turn, which in IDLE leaves the state. -/
theorem idleEngineDoesNothing : Obligations.IdleEngineDoesNothing := fun s rest hs hnext =>
  (step_of_engineNext s rest hnext).trans (engineTurn_idle { s with inputs := rest } hs)

/-- A command's answer is the state it started from, where a collaborator does not return, a completion with code 0, or `abort` (R82, R117,
R123). -/
theorem exec_stuck_or_success_or_abort (i : Instr) (s : State) :
    ∃ t, exec i s = .next t ∧ (t = s ∨ t.status.ecode = 0 ∨ ∃ e, t = abort e s) := by
  cases i with
  | nop | lcgSeed | lcgNext | lcgTag _ => exact ⟨_, rfl, .inr (.inl rfl)⟩
  | lcgBlock =>
    rcases execLcgBlock_cases s with ⟨-, h⟩ | ⟨-, h⟩
    · exact ⟨_, h, .inr (.inl rfl)⟩
    · exact ⟨_, h, .inr (.inr ⟨_, rfl⟩)⟩
  | rotBlock =>
    rcases execRotBlock_cases s with ⟨-, -, h⟩ | ⟨-, -, h⟩ | ⟨-, h⟩
    · exact ⟨_, h, .inr (.inl rfl)⟩
    · exact ⟨_, h, .inr (.inr ⟨_, rfl⟩)⟩
    · exact ⟨_, h, .inr (.inr ⟨_, rfl⟩)⟩
  | enc ver ivs tagb =>
    rcases encWith_cases Config.collaborators ver ivs tagb s with ⟨e, -, h⟩ | ⟨v, -, ⟨-, h⟩ | ⟨-, ⟨-, h⟩ | ⟨-, h⟩⟩⟩
    · exact ⟨_, h, .inr (.inr ⟨_, rfl⟩)⟩
    · exact ⟨_, h, .inr (.inr ⟨_, rfl⟩)⟩
    · exact ⟨s, h, .inl rfl⟩
    · exact ⟨_, h, .inr (.inl rfl)⟩
  | dec =>
    rcases decWith_cases Config.collaborators s with
      ⟨e, -, h⟩ | ⟨fam, -, ⟨-, h⟩ | ⟨-, ⟨e, -, h⟩ | ⟨out, -, ⟨-, h⟩ | ⟨-, h⟩⟩⟩⟩
    · exact ⟨_, h, .inr (.inr ⟨_, rfl⟩)⟩
    · exact ⟨_, h, .inr (.inr ⟨_, rfl⟩)⟩
    · exact ⟨_, h, .inr (.inr ⟨_, rfl⟩)⟩
    · exact ⟨s, h, .inl rfl⟩
    · exact ⟨_, h, .inr (.inl rfl)⟩

/-- A command that moves on and ends with a code other than 0 leaves `State.failed` (R123). -/
theorem exec_eq_failed (i : Instr) (s t : State) (h : exec i s = .next t) (hmoved : t ≠ s) (he : t.status.ecode ≠ 0) :
    t = s.failed t.status.ecode := by
  obtain ⟨u, hu, hcases⟩ := exec_stuck_or_success_or_abort i s
  obtain rfl : u = t := Host.Outcome.next.inj (hu.symm.trans h)
  obtain ⟨e, rfl⟩ := (hcases.resolve_left hmoved).resolve_left he
  exact abort_eq_failed e s

/-- Settles O42: a legal word's error completion is `State.failed`, an illegal word's is `completeIllegal`. -/
theorem errorCompletion : Obligations.ErrorCompletion := by
  intro s t w rest hs hnext hstep hidle he
  have hturn := (step_of_engineNext s rest hnext).symm.trans hstep
  cases hd : decode w with
  | ok i =>
    have hmoved : t ≠ { s with inputs := rest } := by
      rintro rfl
      simp [hs] at hidle
    rw [engineTurn_busy { s with inputs := rest } w i hs hd] at hturn
    exact exec_eq_failed i { s with inputs := rest } t hturn hmoved he
  | error e =>
    rw [engineTurn_illegal { s with inputs := rest } w e hs hd] at hturn
    cases hturn
    rfl

end Sys2Proof.Machine
end

section
/-! PROOFS. A run whose collaborators return: no move but a hang stops them, each move uses up one input, and the engine's turn after the
last leaves the sequencer IDLE (R82, R145, R147). -/

namespace Sys2Proof.Machine

/-- A host write to a CSR leaves the moves to come, and which collaborators return. -/
theorem writeCsr_hung_inputs (r : Csr) (v : Word) (s : State) :
    (writeCsr r v s).hung = s.hung ∧ (writeCsr r v s).inputs = s.inputs := by
  cases r with
  | id | status | dstLen | lcgState | result => exact ⟨rfl, rfl⟩
  | cmd =>
    cases hs : s.seq with
    | idle => rw [writeCsr, writeCmd_idle v s hs]; exact ⟨rfl, rfl⟩
    | busy w => rw [writeCsr, writeCmd_busy v w s hs]; exact ⟨rfl, rfl⟩
  | ctrl | srcAddr | srcLen | dstAddr | dstCap | ivAddr | ivLen | arg =>
    rcases writeWhenIdle_eq_or s _ with h | h <;> rw [writeCsr, h] <;> exact ⟨rfl, rfl⟩

theorem writeOffset_hung_inputs (off : Nat) (v : Word) (s : State) :
    (writeOffset off v s).hung = s.hung ∧ (writeOffset off v s).inputs = s.inputs := by
  unfold writeOffset
  cases Csr.ofOffset off with
  | none => exact ⟨rfl, rfl⟩
  | some r => exact writeCsr_hung_inputs r v s

/-- The engine's turn leaves the moves to come, and which collaborators return (R43, R82). -/
theorem engineTurn_hung_inputs (s t : State) (h : engineTurn s = .next t) : t.hung = s.hung ∧ t.inputs = s.inputs := by
  rcases engineTurn_cases s with ⟨-, he⟩ | ⟨w, i, -, -, he⟩ | ⟨w, e, -, -, he⟩
  · cases he.symm.trans h
    exact ⟨rfl, rfl⟩
  · obtain ⟨u, hu, hframe⟩ := exec_framed i s
    obtain rfl : u = t := Host.Outcome.next.inj (hu.symm.trans (he.symm.trans h))
    rw [hframe.kept]
    exact ⟨rfl, rfl⟩
  · cases he.symm.trans h
    exact ⟨rfl, rfl⟩

/-- Where the collaborators return, they still do after any move that is no hang; the moves to come stay (R82, R136). -/
theorem move_keeps_returning (x : Input) (s t : State) (hx : x.isHang = false) (hs : s.hung.none) (h : move x s = .next t) :
    t.hung.none ∧ t.inputs = s.inputs := by
  cases x with
  | csrWrite addr size v =>
    obtain ⟨off, rfl⟩ := hostCsrWrite_next addr size v s t h
    obtain ⟨hhung, hinputs⟩ := writeOffset_hung_inputs off v s
    exact ⟨hhung ▸ hs, hinputs⟩
  | csrRead addr size =>
    rw [hostCsrRead_next addr size s t h]
    exact ⟨hs, rfl⟩
  | memWrite a bs =>
    obtain ⟨-, rfl⟩ := hostMemWrite_next a bs s t h
    exact ⟨hs, rfl⟩
  | memRead a n =>
    rw [hostMemRead_next a n s t h]
    exact ⟨hs, rfl⟩
  | irqSample =>
    cases h
    rw [hostIrqSample_eq]
    exact ⟨hs, rfl⟩
  | engine =>
    obtain ⟨hhung, hinputs⟩ := engineTurn_hung_inputs s t h
    exact ⟨hhung ▸ hs, hinputs⟩
  | hang p => cases hx
  | reset =>
    cases h
    exact ⟨⟨rfl, rfl, rfl, rfl, rfl⟩, rfl⟩

/-- A step that takes a move uses that move up, and keeps the premise on the collaborators. -/
theorem step_cons_returning (s t : State) (x : Input) (rest : List Input) (hi : s.inputs = x :: rest)
    (hs : s.collaboratorsReturn) (h : step s = .next t) : t.inputs = rest ∧ t.collaboratorsReturn := by
  obtain ⟨hnone, hmoves⟩ := hs
  rw [hi, List.forall_mem_cons] at hmoves
  obtain ⟨hx, hrest⟩ := hmoves
  obtain ⟨hnone', hinputs⟩ := move_keeps_returning x { s with inputs := rest } t hx hnone ((step_cons s x rest hi).symm.trans h)
  exact ⟨hinputs, hnone', hinputs ▸ hrest⟩

/-- The step after the last input ends the run: an IDLE engine stays IDLE, a BUSY one completes (R16, R128, R145). -/
theorem step_over_of_no_inputs (s t : State) (hi : s.inputs = []) (hnone : s.hung.none) (h : step s = .next t) : t.over := by
  cases hs : s.seq with
  | idle =>
    cases (idleEngineDoesNothing s [] hs (.inr ⟨hi, rfl⟩)).symm.trans h
    exact ⟨hs, rfl⟩
  | busy w =>
    obtain ⟨u, hu, hidle, hinputs, -⟩ := acceptedCommandCompletes s w [] hs (.inr ⟨hi, rfl⟩) hnone
    cases hu.symm.trans h
    exact ⟨hidle, hinputs⟩

/-- A run that answers a next state took a first step that did. -/
theorem steps_succ_next (n : Nat) (s t : State) (h : steps (n + 1) s = .next t) :
    ∃ u, step s = .next u ∧ steps n u = .next t := by
  cases hs : step s with
  | next u => exact ⟨u, rfl, (steps_succ n s u hs).symm.trans h⟩
  | fault r => simp [steps, hs] at h
  | refused r => simp [steps, hs] at h

/-- One step for each input and one more end a run, by induction on the inputs (R145, R147). -/
theorem over_of_steps (moves : List Input) (s t : State) (hi : s.inputs = moves) (hs : s.collaboratorsReturn)
    (h : steps (moves.length + 1) s = .next t) : t.over := by
  induction moves generalizing s with
  | nil =>
    obtain ⟨u, hu, hend⟩ := steps_succ_next 0 s t h
    cases hend
    exact step_over_of_no_inputs s t hi hs.1 hu
  | cons x rest ih =>
    obtain ⟨u, hu, hend⟩ := steps_succ_next (rest.length + 1) s t h
    obtain ⟨hinputs, hreturn⟩ := step_cons_returning s u x rest hi hs hu
    exact ih u hinputs hreturn hend

/-- Settles O44, by induction on the inputs. -/
theorem runReachesItsEnd : Obligations.RunReachesItsEnd := fun s t => over_of_steps s.inputs s t rfl

end Sys2Proof.Machine
end

section
/-! PROOFS. Reset, in IDLE and while BUSY, the observation that ends the hazard, and the invariant at power-on (R136 to R138, R141). -/

namespace Sys2Proof.Machine

/-- A reset in IDLE leaves the memory (R136). -/
theorem memAfterReset_idle (s : State) (h : s.seq = .idle) : memAfterReset s = s.mem := by
  simp [memAfterReset, h]

/-- Reset puts every CSR where power-on reset has it (R39, R136). -/
theorem csrValue_resetEngine (s : State) (r : Csr) : csrValue (resetEngine s) r = csrValue State.reset r := by
  cases r <;> rfl

theorem csrReadValue_resetEngine (s : State) (off : Nat) :
    csrReadValue (resetEngine s) off = csrReadValue State.reset off := by
  unfold csrReadValue
  cases Csr.ofOffset off with
  | none => rfl
  | some r => exact csrValue_resetEngine s r

/-- Settles O51: what a reset frees lies in the destination and in no region that is read. -/
theorem resetWhileBusy : Obligations.ResetWhileBusy := by
  intro s w rest hs hi
  have hread := memAfterReset_read { s with inputs := rest } w
  rw [wordRegions_inputs] at hread
  exact ⟨_, step_cons s .reset rest hi, rfl, rfl, rfl, fun a ha => hread a hs (.inl ha),
    fun r hr a ha => hread a hs (.inr ⟨r, hr, ha⟩)⟩

/-- Settles O50: the CSRs read as after power-on reset. -/
theorem resetSetsEveryRegister : Obligations.ResetSetsEveryRegister := by
  intro s rest hi
  obtain ⟨-, -, hvalues⟩ := resetValues
  exact ⟨_, step_cons s .reset rest hi, rfl, rfl, rfl, rfl, rfl, fun off => (csrReadValue_resetEngine _ off).trans (hvalues off),
    memAfterReset_idle _⟩

/-- BUSY is bit 0 of STATUS (R15, R23). -/
theorem statusWord_busy (s : State) : (statusWord s).getLsbD 0 = s.seq.isBusy := by
  simp only [statusWord, BitVec.getLsbD_append]
  simp

/-- The read of STATUS that is an observation of completion, by the word it returns (R141). -/
theorem seesDone_status_iff (s : State) :
    seesDone 0x08 s = true ↔ (statusWord s).getLsbD 0 = false ∧ (statusWord s).getLsbD 1 = true := by
  rw [statusWord_busy, statusWord_done]
  simp [seesDone, Csr.ofOffset]

/-- Settles O48: the STATUS word read and the level sampled decide what was observed. -/
theorem observationEndsHazard : Obligations.ObservationEndsHazard := by
  intro s rest
  constructor
  · intro hi
    have hstatus : csrReadValue s 0x08 = statusWord s := csrReadValue_offset s .status
    refine ⟨_, step_csrRead s 0x08 rest (by decide) rfl hi, ?_⟩
    simp only [observeIf_eq, hstatus, seesDone_status_iff]
  · intro hi
    refine ⟨_, step_cons s .irqSample rest hi, ?_⟩
    rw [hostIrqSample_eq]

/-- Power-on with a canonical launch memory that fits meets the invariant (R138). -/
theorem State.launch_inv (p : Platform) (m : Memory) (ins : List Input) (hpos : 1 ≤ p.memSize) (hmax : p.memSize ≤ 2 ^ 32)
    (hwf : m.wf) (hin : ∀ c ∈ m, c.1 < p.memSize) : (State.launch p m ins).Inv where
  memWf := hwf
  memInside := hin
  memSizePos := hpos
  memSizeMax := hmax
  busyStatus := by simp [State.launch, State.reset]
  errIsCode := rfl
  codeRange := by simp [State.launch, State.reset]
  versionRange := by simp [State.launch, State.reset]
  errNoVersion := by simp [State.launch, State.reset]

/-- Power-on reset is a launch of this hardware's platform with no cell listed. -/
theorem State.reset_eq_launch : State.reset = State.launch Platform.ofConfig [] [] := rfl

/-- Settles O54: reset is the launch with no cell listed, and MEM_SIZE is a 32-bit number plus 1. -/
theorem resetMeetsInvariant : Obligations.ResetMeetsInvariant := by
  refine ⟨?_, State.launch_inv⟩
  rw [State.reset_eq_launch]
  exact State.launch_inv _ [] [] (Nat.le_add_left 1 _) Config.memSizeLessOne.isLt reset_mem_wf (by simp)

end Sys2Proof.Machine
end
